-- ==== Sys2Proof/Word.lean ====
section
/-! DEFINITION. The word types of the block: bytes and 64-bit words (spec 00_scope R7, R9). -/

namespace Sys2Proof

/-- A byte, bit 0 the least significant (R9). -/
abbrev Byte := BitVec 8

/-- A 64-bit word: an address value, a search accumulator (R7). -/
abbrev Word := BitVec 64

end Sys2Proof
end

