-- ==== Sys2Proof/Config.lean ====
section
/-! DEFINITION. What an implementation fixes (00_scope R8) and the environment's free values (20_memory R51 to R54).
The constants without a body are open: no proof can see their value. -/

namespace Sys2Proof

/-- What the environment chooses for one `TxWrite` (20_memory R53): the whole frame was taken, the transport returned the
count `k`, or a channel error. A count not below the frame's length is a full write (log entry 17). -/
inductive WriteDraw where
  | full
  | count (k : Nat)
  | error
  deriving DecidableEq, Repr, Inhabited

/-- What the environment chooses for one `RxRead` (20_memory R52, 60_exceptions R264): the bytes `xs` arrive and nothing
more does, a channel error, or a read that never completes. -/
inductive ReadDraw where
  | arrive (xs : List Byte)
  | error
  | hang
  deriving DecidableEq, Repr, Inhabited

/-- `SEARCH_ENC_VARIANT` (00_scope R8, D6): the normative encoder and its alternative. The default is VECTOR. -/
inductive EncVariant where
  | vector
  | prose
  deriving DecidableEq, Repr

namespace Config

/-- OPEN (R82, D26): which of the codes 6 and 7 stands for FOREVER in the strong-pull-up table. Log entry 8. -/
opaque spuForeverIsSeven : Bool

/-- `SPU_FOREVER_CODE` of R8: 6 or 7, and nothing more is known of it. -/
def spuForeverCode : BitVec 3 := if spuForeverIsSeven then 7#3 else 6#3

/-- OPEN (R8, D25): the line framing DETECT sets. No rule depends on it. Log entry 9. -/
opaque detectFraming : String

/-- OPEN (R8, D25): the settle delay after the line break. No rule depends on it. Log entry 9. -/
opaque tBreakSettle : Nat

/-- OPEN (R8, D25): the settle delay after the timing byte. No rule depends on it. Log entry 9. -/
opaque tResetSettle : Nat

/-- Free values: the outcome of a flush beyond the script of draws (R51). Log entry 1. -/
opaque freeFlush : Nat → Bool

/-- Free values: the outcome of a write beyond the script of draws (R53). Log entry 1. -/
opaque freeWrite : Nat → WriteDraw

/-- Free values: the outcome of a read beyond the script of draws (R52, R264). Log entry 1. -/
opaque freeRead : Nat → ReadDraw

/-- Free values: the outcome of a line-control primitive beyond the script of draws (R54). Log entry 1. -/
opaque freeLine : Nat → Bool

end Config

end Sys2Proof
end

