-- ==== Sys2Proof/Syntax.lean ====
section
/-! DEFINITION. The instructions of the block, one constructor per row of spec/opcode_table.json, and the records they
arrive in at the block's ports (30_encoding R101, R102, R115, R116). -/

namespace Sys2Proof

/-- The chip mode a frame is meant for, and the value of the register MODE (10_state R27). -/
inductive Mode where
  | command
  | data
  deriving DecidableEq, Repr

/-- The tokens a CONFIGURE field may hold (30_encoding R82, R102). `other` is any token that is none of the four. -/
inductive Token where
  | standard
  | flexible
  | overdrive
  | forever
  | other (name : String)
  deriving DecidableEq, Repr

/-- A CONFIGURE field: a number or a token, legal or not (30_encoding R102). Log entry 19. -/
inductive CfgValue where
  | num (v : Int)
  | token (t : Token)
  deriving DecidableEq, Repr

/-- The checked fields of the CONFIGURE record (43_frame_mode R197). -/
inductive CfgField where
  | speed | slew | pdur | spud | w1lt | w0rt | load | baud
  deriving DecidableEq, Repr

/-- The CONFIGURE record (30_encoding R102). -/
structure CfgRecord where
  speed : CfgValue
  slew : CfgValue
  pdur : CfgValue
  spud : CfgValue
  w1lt : CfgValue
  w0rt : CfgValue
  load : CfgValue
  baud : CfgValue
  spu : Bool
  deriving DecidableEq, Repr

/-- The CONFIGURE record as the host writes it: `spu` is a number that must be 0 or 1 (30_encoding R102). -/
structure RawRecord where
  speed : CfgValue
  slew : CfgValue
  pdur : CfgValue
  spud : CfgValue
  w1lt : CfgValue
  w0rt : CfgValue
  load : CfgValue
  baud : CfgValue
  spu : Int
  deriving DecidableEq, Repr

/-- One operand as the host writes it, before its domain is checked (30_encoding R101, R102, R115): a number (a bit, a
byte, a word or an integer), a byte list, a mode, the CONFIGURE record, or a text literal. -/
inductive Operand where
  | int (v : Int)
  | bytes (xs : List Int)
  | mode (m : Mode)
  | record (r : RawRecord)
  | text (cs : List Char)
  deriving DecidableEq, Repr

/-- A host request: an 8-bit selector and its operands (30_encoding R101). -/
structure Request where
  sel : Byte
  ops : List Operand
  deriving DecidableEq, Repr

/-- What a response byte answers: its position in the exchange, which fixes how it is read (30_encoding R85, R87 and
43_frame_mode R216). -/
inductive Awaited where
  | reset
  | search
  | bitWrite
  deriving DecidableEq, Repr

/-- The four pseudo-operations (30_encoding R116). -/
inductive Pseudo where
  | addrParse | addrRender | crcStream | prsStream
  deriving DecidableEq, Repr

/-- One entry of the queue of work for the block: a host request, an assembler pseudo-operation, a wire byte to send, or a
response byte to check. The last two are how the table's wire rows are reached (log entries 3, 4 and 5). -/
inductive Item where
  | request (r : Request)
  | pseudo (p : Pseudo) (ops : List Operand)
  | send (b : Byte)
  | receive (after : Awaited) (b : Byte)
  deriving DecidableEq, Repr

/-- The instructions, in the order of spec/opcode_table.json. -/
inductive Instr where
  -- outgoing wire bytes (30_encoding R70 to R83)
  | markData
  | markCommand
  | owReset (speed : BitVec 2)
  | srchAccOn (speed : BitVec 2)
  | srchAccOff (speed : BitVec 2)
  | bitWrite (speed : BitVec 2)
  | searchRom
  | cfgRead (param : BitVec 3)
  | cfgWriteSlew (code : BitVec 3)
  | cfgWritePdur (code : BitVec 3)
  | cfgWriteSpud (code : BitVec 3)
  | cfgWriteW1lt (code : BitVec 3)
  | cfgWriteW0rt (code : BitVec 3)
  | cfgWriteLoad (code : BitVec 3)
  | cfgWriteBaud (code : BitVec 3)
  -- response bytes, any value being accepted by the transport (30_encoding R85, R87, R95; 43_frame_mode R216)
  | resetResponse (y : Byte)
  | searchEcho (y : Byte)
  | bitWriteEcho (y : Byte)
  -- CRC unit (40_crc)
  | crcClr
  | crcBit (b : Bool)
  | crcByte (x : Byte)
  | crcRead
  | crcSeq (xs : List Byte)
  | crcSeqr (xs : List Byte)
  -- address validator (41_address)
  | addrMake (fam : Byte) (ser : List Byte)
  | addrFromBytes (xs : List Byte)
  | addrFromSearch (acc : Word)
  | addrToBytes (v : Word)
  | addrFields (v : Word)
  -- search codec and parser (42_search_codec)
  | encSearch (t : Word) (last : Nat)
  | decSearch (rs : List Byte)
  | prsClr
  | prsBit (b : Bool)
  | prsByte (x : Byte)
  | prsRead
  -- frame unit (43_frame_mode)
  | configure (p : CfgRecord)
  | xact (m : Mode) (tx : List Byte) (n : Nat)
  | detect
  | resetBus
  | search (t : Word) (last : Nat)
  | txrx (tx : List Byte) (n : Nat)
  -- sequencer (44_enumerate)
  | enumerate
  -- pseudo-operations (30_encoding R116)
  | addrParse (cs : List Char)
  | addrRender (v : Word)
  | crcStream (xs : List Byte)
  | prsStream (rs : List Byte)
  deriving DecidableEq, Repr

end Sys2Proof
end

