-- ==== Sys2Proof/Machine/State.lean ====
section
/-! DEFINITION. The state of the block (10_state, 70_reset_and_hazards R290), the values it exchanges with its host
(30_encoding R101, 60_exceptions R261) and with the transport (20_memory R51 to R55), and its state after reset. -/

namespace Sys2Proof.Machine

/-- The chip versions a reset response may name (30_encoding R86). -/
inductive ChipVersion where
  | ds2480
  | ds2480b
  deriving DecidableEq, Repr

/-- The phase of a TransportError (60_exceptions R262). -/
inductive Phase where
  | flush | write | shortWrite | read | shortRead | line
  deriving DecidableEq, Repr

/-- Which check an InvalidResponse comes from (60_exceptions R261). -/
inductive RespOp where
  | reset
  | search
  deriving DecidableEq, Repr

/-- The errors an operation may return, with their information (60_exceptions R261). An error is a normal outcome of a
step (R260): safe, since it is what the spec says the host receives. -/
inductive Err where
  | configValidation (field : CfgField) (value : CfgValue) (legal : List CfgValue)
  | transport (phase : Phase)
  | invalidResponse (op : RespOp) (byte : Byte)
  | crcMismatch (computed embedded : Byte)
  | invalidFormat (fields : Nat)
  | invalidLength (len : Nat)
  | invalidFamily
  | invalidSerial
  | invalidCrc
  deriving DecidableEq, Repr

/-- The results an operation may return (30_encoding R103). -/
inductive Result where
  | none
  | byte (x : Byte)
  | addr (v : Word)
  | bytes (xs : List Byte)
  | fields (family : Byte) (serial : BitVec 48) (crc : Byte)
  | decoded (acc : Word) (nxt : Nat)
  | parser (acc : Word) (nxt : BitVec 7) (idx : BitVec 8) (done : Bool)
  | present (p : Bool)
  | echo (matched : Bool)
  | reset (version : ChipVersion) (status : BitVec 2)
  | addrs (vs : List Word)
  | text (cs : List Char)
  deriving DecidableEq, Repr

/-- The response record of an operation that was not refused (30_encoding R101). -/
inductive Response where
  | result (r : Result)
  | error (e : Err)
  deriving DecidableEq, Repr

/-- How a `TxWrite` ended (20_memory R53). -/
inductive WriteResult where
  | ok
  | short (count : Nat)
  | error
  deriving DecidableEq, Repr

/-- How an `RxRead` ended (20_memory R52, 60_exceptions R264). -/
inductive ReadResult where
  | bytes (xs : List Byte)
  | short
  | error
  | hang
  deriving DecidableEq, Repr

/-- A transport primitive with its arguments and outcome (20_memory R55). -/
inductive Event where
  | flush (ok : Bool)
  | write (xs : List Byte) (r : WriteResult)
  | read (n : Nat) (r : ReadResult)
  | lineBreak (ok : Bool)
  | setLine (baud : Nat) (framing : String) (ok : Bool)
  | updateConfig (ok : Bool)
  | delay (t : Nat)
  deriving DecidableEq, Repr

/-- The value of LIVE_BAUD: a baud code or UNKNOWN (10_state R32). -/
inductive LiveBaud where
  | unknown
  | code (c : BitVec 2)
  deriving DecidableEq, Repr

/-- The registers of the bit-serial parser (10_state R25). -/
structure Parser where
  idx : BitVec 8
  acc : Word
  nxt : BitVec 7
  dl : Bool
  deriving DecidableEq, Repr

/-- The session configuration registers (10_state R29 to R31). -/
structure Session where
  speed : BitVec 2
  slew : BitVec 3
  pdur : BitVec 3
  spud : BitVec 3
  w1lt : BitVec 3
  w0rt : BitVec 3
  load : BitVec 3
  baud : BitVec 3
  spu : Bool
  deriving DecidableEq, Repr

/-- The registers of the enumeration sequencer (10_state R40 to R43). -/
structure Cursor where
  tree : Word
  pos : BitVec 7
  iter : BitVec 7
  list : List Word
  deriving DecidableEq, Repr

/-- The environment's future draws for one primitive: a finite script, and how many free values beyond it have been used.
The model's own (log entry 1): a statement holds for every script. -/
structure Feed (α : Type) where
  script : List α
  beyond : Nat
  deriving DecidableEq, Repr

/-- The environment's future draws, one feed for each kind of primitive (20_memory R51 to R54). -/
structure Env where
  flushes : Feed Bool
  writes : Feed WriteDraw
  reads : Feed ReadDraw
  lines : Feed Bool
  deriving DecidableEq, Repr

/-- Everything the spec gives the block, the transport as the block sees it, and its ports. -/
structure State where
  /-- CRC_ACC (10_state R23). -/
  crcAcc : Byte
  /-- PRS_IDX, PRS_ACC, PRS_NXT and PRS_DL (10_state R25). -/
  prs : Parser
  /-- MODE (10_state R27). -/
  mode : Mode
  /-- CFG_VALID (10_state R28). -/
  cfgValid : Bool
  /-- SPEED, CFG_* and SPU_FLAG (10_state R29 to R31). -/
  cfg : Session
  /-- LIVE_BAUD (10_state R32). -/
  liveBaud : LiveBaud
  /-- ENUM_TREE, ENUM_POS, ENUM_ITER and ENUM_LIST (10_state R40 to R43). -/
  enum : Cursor
  /-- The transport event history, oldest first (20_memory R55). -/
  history : List Event
  /-- The transport's pending input (10_state R45). -/
  pending : List Byte
  /-- The environment's draws (20_memory R51 to R54). -/
  env : Env
  /-- SEARCH_ENC_VARIANT, the parameter the model is built with (00_scope R8); no step writes it. -/
  encVariant : EncVariant
  /-- What the host has issued and the block has not taken yet, in issue order (20_memory R65). -/
  queue : List Item
  /-- The response to the last operation; none before the first (30_encoding R101). -/
  response : Option Response
  deriving DecidableEq, Repr

/-- Why the machine stops. -/
inductive Fault where
  /-- Raised by every operation that reads from the transport, when the environment draws HANG (60_exceptions R264): the
  operation never completes and the block accepts no further one. It carries the stuck state, with every register write
  and event made up to the hung read. Stopping is
  safe: it is the spec's own stuck state. What that state holds is DEDUCED, and unsafe to rest on (log entry 10). -/
  | hung (stuck : State)
  deriving DecidableEq, Repr

/-- Why the model gives a request no meaning (00_scope R13, 60_exceptions R275). -/
inductive Refusal where
  /-- Raised by an arm of `exec` that has no meaning yet; no arm does. Safe. -/
  | notModelled (mnemonic : String)
  /-- RESERVED_SELECTOR: raised by the decoder (30_encoding R104). Safe: the spec refuses it. -/
  | reservedSelector (sel : Byte)
  /-- OPERAND_DOMAIN: raised by the decoder and by the meanings whose operand has a domain (30_encoding R102). Safe: the
  spec refuses it. -/
  | operandDomain
  /-- UNCONFIGURED: raised by every transport operation while CFG_VALID = 0 (43_frame_mode R199). Safe: the spec refuses
  it. -/
  | unconfigured
  /-- PARSER_FULL: raised by PRS_BIT and PRS_BYTE (42_search_codec R170, R171). Safe: the spec refuses it. -/
  | parserFull
  /-- Raised by the decoder on an address literal that does not parse: an assembly error (30_encoding R115). Safe. -/
  | badLiteral
  /-- Raised by the decoder on a wire byte of no table row, and by the speed-encoded commands on speed code 3: bytes the
  block never emits or reads so (30_encoding R79, R95). Safe. -/
  | reservedWireByte (b : Byte)
  deriving DecidableEq, Repr

/-- The parser after reset and after PRS_CLR (10_state R25, 42_search_codec R169). -/
def Parser.start : Parser := { idx := 0#8, acc := 0#64, nxt := 64#7, dl := false }

/-- The cursor after reset and at ENUMERATE's start (10_state R40 to R43, 44_enumerate R240). -/
def Cursor.start : Cursor := { tree := 0#64, pos := 0#7, iter := 0#7, list := [] }

/-- The machine right after reset (70_reset_and_hazards R290). The session registers hold no value there; the zeros are
the model's (DESIGN CHOICE, log entry 2), and so are the empty pending input (log entry 11) and the empty scripts (log
entry 1). -/
def State.reset : State where
  crcAcc := 0x00#8
  prs := Parser.start
  mode := .command
  cfgValid := false
  cfg :=
    { speed := 0#2, slew := 0#3, pdur := 0#3, spud := 0#3, w1lt := 0#3, w0rt := 0#3, load := 0#3, baud := 0#3,
      spu := false }
  liveBaud := .unknown
  enum := Cursor.start
  history := []
  pending := []
  env :=
    { flushes := { script := [], beyond := 0 }, writes := { script := [], beyond := 0 },
      reads := { script := [], beyond := 0 }, lines := { script := [], beyond := 0 } }
  encVariant := .vector
  queue := []
  response := none

end Sys2Proof.Machine
end

