-- ==== Sys2Proof/Machine/Operands.lean ====
section
/-! DEFINITION. The pure functions of the spec: byte and bit order, the CRC, the address value and its text form, the search
frames, the wire bytes and the configuration tables. None touches the state. -/

namespace Sys2Proof.Machine

/-! ### Byte and bit order (00_scope R9, R10; 20_memory R56 to R58) -/

/-- The `n` low bytes of `v`, byte 0 first. -/
def leBytes {w : Nat} (n : Nat) (v : BitVec w) : List Byte :=
  (List.range n).map fun k => v.extractLsb' (8 * k) 8

/-- The number whose bytes, from the least significant up, are `xs`. -/
def leNat (xs : List Byte) : Nat :=
  xs.foldr (fun b acc => b.toNat + 256 * acc) 0

/-- `LE8(v)` (R10). -/
def le8 (v : Word) : List Byte := leBytes 8 v

/-- `LE16(Q)` (R10). -/
def le16 (q : BitVec 128) : List Byte := leBytes 16 q

/-- `fromLE(xs)` for 8 bytes (R10). -/
def fromLE (xs : List Byte) : Word := BitVec.ofNat 64 (leNat xs)

/-- `fromLE16(xs)` for 16 bytes (R10). -/
def fromLE16 (xs : List Byte) : BitVec 128 := BitVec.ofNat 128 (leNat xs)

/-- The number whose bit `k` is `f k`, for `k` below `n`. -/
def bitsNat (f : Nat → Bool) : Nat → Nat
  | 0 => 0
  | n + 1 => bitsNat f n + (if f n then 2 ^ n else 0)

/-- The `w`-bit value whose bit `k` is `f k`. -/
def ofBits (w : Nat) (f : Nat → Bool) : BitVec w := BitVec.ofNat w (bitsNat f w)

/-! ### The CRC (40_crc R120, R121) -/

/-- The bit step `crcbit` of R121. -/
def crcBitStep (c : Byte) (b : Bool) : Byte :=
  if (c.getLsbD 0) != b then (c >>> 1) ^^^ 0x8C#8 else c >>> 1

/-- The byte step `crcbyte` of R121: bit 0 first. -/
def crcByteStep (c x : Byte) : Byte :=
  (List.range 8).foldl (fun c k => crcBitStep c (x.getLsbD k)) c

/-- `CRC8(xs)` of R121, from 0x00. -/
def crc8 (xs : List Byte) : Byte := xs.foldl crcByteStep 0x00#8

/-! ### The address value (41_address R140 to R145) -/

/-- The family code of an address value (R140). -/
def addrFamily (v : Word) : Byte := v.extractLsb' 0 8

/-- The serial number of an address value (R140). -/
def addrSerial (v : Word) : BitVec 48 := v.extractLsb' 8 48

/-- The CRC field of an address value (R140). -/
def addrCrc (v : Word) : Byte := v.extractLsb' 56 8

/-- R141: an address is valid when its CRC field is the CRC-8 of its first seven bytes. -/
abbrev AddrValid (v : Word) : Prop := addrCrc v = crc8 ((le8 v).take 7)

/-- The generator path of R143. -/
def addrOf (fam : Byte) (ser : List Byte) : Word :=
  fromLE (fam :: ser ++ [crc8 (fam :: ser)])

/-- The validator on the byte form (R144): the length is checked first, then the CRC. -/
def addrFromBytes (xs : List Byte) : Except Err Word :=
  if xs.length ≠ 8 then .error (.invalidLength xs.length)
  else if crc8 (xs.take 7) ≠ xs.getD 7 0#8 then
    .error (.crcMismatch (crc8 (xs.take 7)) (xs.getD 7 0#8))
  else .ok (fromLE xs)

/-- The validator on a search accumulator (R145). -/
def addrFromSearch (acc : Word) : Except Err Word := addrFromBytes (le8 acc)

/-! ### The text form of an address (30_encoding R110 to R114; 41_address R150, R151) -/

/-- The value of a hex digit of either case (R111, D23). -/
def hexVal (c : Char) : Option Nat :=
  let k := c.toNat
  if 48 ≤ k ∧ k ≤ 57 then some (k - 48)
  else if 97 ≤ k ∧ k ≤ 102 then some (k - 87)
  else if 65 ≤ k ∧ k ≤ 70 then some (k - 55)
  else none

/-- The values of a field's digits, if every character is a hex digit (R111). -/
def hexVals : List Char → Option (List Nat)
  | [] => some []
  | c :: cs =>
    match hexVal c, hexVals cs with
    | some v, some vs => some (v :: vs)
    | _, _ => none

/-- Two digits a byte, left to right (R111). -/
def pairBytes : List Nat → List Byte
  | a :: b :: rest => BitVec.ofNat 8 (16 * a + b) :: pairBytes rest
  | _ => []

/-- `hexfield`: the bytes of a field, an odd number of digits being padded with one zero on the left (R111). -/
def hexField (cs : List Char) : Option (List Byte) :=
  match hexVals cs with
  | some vs => some (pairBytes (if vs.length % 2 = 1 then 0 :: vs else vs))
  | none => none

/-- The fields of a text between its dots (R110). -/
def splitDots : List Char → List (List Char)
  | [] => [[]]
  | c :: cs =>
    if c = '.' then [] :: splitDots cs
    else
      match splitDots cs with
      | f :: fs => (c :: f) :: fs
      | [] => [[c]]

/-- A serial of fewer than six bytes is padded with zero bytes on the left (R112). -/
def padSerial (ser : List Byte) : List Byte := List.replicate (6 - ser.length) 0#8 ++ ser

/-- The CRC field of a text literal against the address built from the other two (R113, R150). -/
def parseCrc (v : Word) (cs : List Char) : Except Err Word :=
  if cs = ['-', '-'] then .ok v
  else
    match hexField cs with
    | some [crc] => if addrCrc v ≠ crc then .error (.crcMismatch (addrCrc v) crc) else .ok v
    | _ => .error .invalidCrc

/-- `ADDR_PARSE` (R150): format, family, serial, CRC field, mismatch, in that order (R270). -/
def parseAddress (cs : List Char) : Except Err Word :=
  match splitDots cs with
  | [f, s, c] =>
    match hexField f with
    | some [fam] =>
      match hexField s with
      | some ser =>
        if 1 ≤ ser.length ∧ ser.length ≤ 6 then parseCrc (addrOf fam (padSerial ser)) c
        else .error .invalidSerial
      | none => .error .invalidSerial
    | _ => .error .invalidFamily
  | fs => .error (.invalidFormat fs.length)

/-- The lower-case hex digit of a value below 16 (R114). -/
def hexDigit (k : Nat) : Char := if k < 10 then Char.ofNat (48 + k) else Char.ofNat (87 + k)

/-- The two lower-case hex digits of a byte (R114). -/
def hexByte (b : Byte) : List Char := [hexDigit (b.toNat / 16), hexDigit (b.toNat % 16)]

/-- The canonical rendering (R114, R151). -/
def renderAddress (v : Word) : List Char :=
  hexByte (addrFamily v) ++ '.' :: ((le8 v).drop 1 |>.take 6).flatMap hexByte ++ '.' :: hexByte (addrCrc v)

/-! ### Search frames (30_encoding R88, R89; 42_search_codec R160 to R165) -/

/-- Bit `k` of the request frame: bit 2i+1 is the r-bit of lane i and bit 2i its d-bit (R160), filled as R161 (VECTOR) or
R162 (PROSE) says. -/
def requestBit (variant : EncVariant) (t : Word) (last k : Nat) : Bool :=
  match variant with
  | .vector =>
    if k % 2 = 1 then decide (k / 2 ≤ last) && t.getLsbD (k / 2)
    else decide (last < 64) && decide (k / 2 = last)
  | .prose =>
    if k % 2 = 1 then
      (decide (k / 2 < last) && t.getLsbD (k / 2)) || (decide (last < 64) && decide (k / 2 = last))
    else false

/-- `EncodeSearchRequest` (R161, R162): 16 bytes. -/
def encodeSearch (variant : EncVariant) (t : Word) (last : Nat) : List Byte :=
  le16 (ofBits 128 (requestBit variant t last))

/-- Lane `i` of a response frame is an untaken branch: d = 1 and r = 0 (R165). -/
def laneOpen (frame : BitVec 128) (i : Nat) : Bool := frame.getLsbD (2 * i) && !frame.getLsbD (2 * i + 1)

/-- `DecodeSearchResponse` (R165): the observed ROM bits, and the lowest untaken branch or 64. -/
def decodeSearch (rs : List Byte) : Word × Nat :=
  (ofBits 64 fun i => (fromLE16 rs).getLsbD (2 * i + 1),
    ((List.range 64).find? (laneOpen (fromLE16 rs))).getD 64)

/-! ### The bit-serial parser's step (42_search_codec R170, R171) -/

/-- One response bit, below the parser's capacity (R170). -/
def Parser.feedBit (p : Parser) (b : Bool) : Parser :=
  if p.idx.getLsbD 0 = false then { p with dl := b, idx := p.idx + 1#8 }
  else
    { p with
      acc := if b then p.acc ||| (1#64 <<< (p.idx >>> 1).toNat) else p.acc
      nxt := if p.dl && !b && p.nxt == 64#7 then (p.idx >>> 1).setWidth 7 else p.nxt
      idx := p.idx + 1#8 }

/-- Eight response bits, bit 0 of the byte first (R171). -/
def Parser.feedByte (p : Parser) (x : Byte) : Parser :=
  (List.range 8).foldl (fun p k => p.feedBit (x.getLsbD k)) p

/-! ### Wire bytes (30_encoding R70 to R92; 43_frame_mode R190) -/

/-- `marker(m)` (R190). -/
def marker : Mode → Byte
  | .command => 0xE3#8
  | .data => 0xE1#8

/-- A speed-encoded command byte, `base | (s << 2)` (R72). -/
def speedCmd (base : Byte) (s : BitVec 2) : Byte := base ||| (s.setWidth 8 <<< 2)

/-- OW_RESET (R73). -/
def owResetByte (s : BitVec 2) : Byte := speedCmd 0xC1#8 s

/-- SRCH_ACC_ON (R75). -/
def srchAccOnByte (s : BitVec 2) : Byte := speedCmd 0xB1#8 s

/-- SRCH_ACC_OFF (R76). -/
def srchAccOffByte (s : BitVec 2) : Byte := speedCmd 0xA1#8 s

/-- BIT_WRITE (R77). -/
def bitWriteByte (s : BitVec 2) : Byte := speedCmd 0x81#8 s

/-- SEARCH_ROM (R78). -/
def searchRomByte : Byte := 0xF0#8

/-- `cfgbyte(i, c)` (R80). -/
def cfgByte (i c : BitVec 3) : Byte := (i.setWidth 8 <<< 4) ||| (c.setWidth 8 <<< 1) ||| 1#8

/-- `cfgread(p)` (R83). -/
def cfgReadByte (p : BitVec 3) : Byte := (p.setWidth 8 <<< 1) ||| 1#8

/-- The SEARCH payload F (R90). -/
def searchPayload (speed : BitVec 2) (q : List Byte) : List Byte :=
  [searchRomByte, marker .command, srchAccOnByte speed, marker .data] ++ q ++
    [marker .command, srchAccOffByte speed]

/-- The DETECT probe P (R92). -/
def probeFrame (c : Session) : List Byte :=
  [cfgByte 1#3 c.slew, cfgByte 4#3 c.w1lt, cfgByte 5#3 c.w0rt, cfgReadByte 7#3, bitWriteByte c.speed]

/-- The value code in a configuration response, bits 3-1 (R84). -/
def cfgCodeOf (y : Byte) : BitVec 3 := y.extractLsb' 1 3

/-- The BIT_WRITE echo test: bits 7-2 only (R87). -/
def echoMatches (y sent : Byte) : Bool := (y &&& 0xFC#8) == (sent &&& 0xFC#8)

/-- DETECT's presence test on its five response bytes (43_frame_mode R210). -/
def presentOf (c : Session) (y : List Byte) : Bool :=
  (cfgCodeOf (y.getD 3 0#8) == c.baud) && echoMatches (y.getD 4 0#8) (bitWriteByte c.speed)

/-- The chip version a reset response names (R86). -/
def versionOf (y : Byte) : Option ChipVersion :=
  if y.extractLsb' 2 3 = 2#3 then some .ds2480
  else if y.extractLsb' 2 3 = 3#3 then some .ds2480b
  else none

/-- The version code (R86). -/
def ChipVersion.code : ChipVersion → Nat
  | .ds2480 => 2
  | .ds2480b => 3

/-- The version text (R86). -/
def ChipVersion.text : ChipVersion → String
  | .ds2480 => "ds2480"
  | .ds2480b => "ds2480b"

/-! ### Configuration tables (30_encoding R82; 43_frame_mode R197) -/

/-- The fields in CONFIGURE's check order (R197, D17). -/
def cfgOrder : List CfgField := [.speed, .slew, .pdur, .spud, .w1lt, .w0rt, .load, .baud]

/-- The values listed for a field, the first one having code 0 (R82). -/
def codesFrom0 (vs : List CfgValue) : List (CfgValue × Nat) := vs.zipIdx

/-- The legal values of a field with their codes (R82). -/
def cfgTable : CfgField → List (CfgValue × Nat)
  | .speed => codesFrom0 [.token .standard, .token .flexible, .token .overdrive]
  | .slew => codesFrom0 [.num 15000, .num 2200, .num 1650, .num 1370, .num 1100, .num 830, .num 700, .num 550]
  | .pdur =>
    codesFrom0 [.num 32, .num 64, .num 128, .num 256, .num 512, .num 1024, .num 2048, .token .forever]
  | .spud =>
    codesFrom0 [.num 16400, .num 65500, .num 131000, .num 262000, .num 524000, .num 1048000] ++
      [(.token .forever, Config.spuForeverCode.toNat)]
  | .w1lt => codesFrom0 [.num 8, .num 9, .num 10, .num 11, .num 12, .num 13, .num 14, .num 15]
  | .w0rt => codesFrom0 [.num 3, .num 4, .num 5, .num 6, .num 7, .num 8, .num 9, .num 10]
  | .load =>
    codesFrom0 [.num 1800, .num 2100, .num 2400, .num 2700, .num 3000, .num 3300, .num 3600, .num 3900]
  | .baud => codesFrom0 [.num 9600, .num 19200, .num 57600, .num 115200]

/-- The legal set a ConfigValidationError lists (R197). -/
def cfgLegal (f : CfgField) : List CfgValue := (cfgTable f).map (·.1)

/-- The code of a legal value (R82). -/
def cfgCode (f : CfgField) (v : CfgValue) : Option Nat := ((cfgTable f).find? fun e => e.1 == v).map (·.2)

/-- A checked field of the record. -/
def cfgGet (p : CfgRecord) : CfgField → CfgValue
  | .speed => p.speed
  | .slew => p.slew
  | .pdur => p.pdur
  | .spud => p.spud
  | .w1lt => p.w1lt
  | .w0rt => p.w0rt
  | .load => p.load
  | .baud => p.baud

/-- The first field, in check order, whose value is not in its table (R197). -/
def firstIllegal (p : CfgRecord) : Option CfgField := cfgOrder.find? fun f => (cfgCode f (cfgGet p f)).isNone

/-- The code of a field of a record that passed its checks. -/
def codeFor (p : CfgRecord) (f : CfgField) : Nat := (cfgCode f (cfgGet p f)).getD 0

/-- The registers a successful CONFIGURE stores (R197). -/
def sessionOf (p : CfgRecord) : Session where
  speed := BitVec.ofNat 2 (codeFor p .speed)
  slew := BitVec.ofNat 3 (codeFor p .slew)
  pdur := BitVec.ofNat 3 (codeFor p .pdur)
  spud := BitVec.ofNat 3 (codeFor p .spud)
  w1lt := BitVec.ofNat 3 (codeFor p .w1lt)
  w0rt := BitVec.ofNat 3 (codeFor p .w0rt)
  load := BitVec.ofNat 3 (codeFor p .load)
  baud := BitVec.ofNat 3 (codeFor p .baud)
  spu := p.spu

/-! ### Numbers the spec gives to names -/

/-- The encoding of MODE (10_state R27). -/
def modeCode : Mode → BitVec 1
  | .command => 0#1
  | .data => 1#1

/-- The error codes (60_exceptions R261). -/
def Err.code : Err → Nat
  | .configValidation _ _ _ => 1
  | .transport _ => 2
  | .invalidResponse _ _ => 3
  | .crcMismatch _ _ => 4
  | .invalidFormat _ => 5
  | .invalidLength _ => 6
  | .invalidFamily => 7
  | .invalidSerial => 8
  | .invalidCrc => 9

/-- The phase codes of a TransportError (60_exceptions R262). -/
def Phase.code : Phase → Nat
  | .flush => 0
  | .write => 1
  | .shortWrite => 2
  | .read => 3
  | .shortRead => 4
  | .line => 5

/-- The op field of an InvalidResponse (60_exceptions R261). -/
def RespOp.code : RespOp → Nat
  | .reset => 0
  | .search => 1

end Sys2Proof.Machine
end

