-- ==== Sys2Proof/WellFormed.lean ====
section
/-! DEFINITION. Which instructions lie in the domains the spec gives their operands (30_encoding R79, R82, R95, R102). -/

namespace Sys2Proof

/-- A speed code that may be sent: 3 is reserved (30_encoding R79, R95). -/
abbrev speedLegal (speed : BitVec 2) : Prop := speed ≠ 3#2

/-- A strong-pull-up code of the table of R82: the six durations, and FOREVER's own code. -/
abbrev spudLegal (code : BitVec 3) : Prop := code ≤ 5#3 ∨ code = Config.spuForeverCode

/-- A baud code of the table of R82. -/
abbrev baudLegal (code : BitVec 3) : Prop := code ≤ 3#3

/-- Every operand of the instruction lies in its domain. CFG_READ is in its domain with every parameter, 0 too, which the spec
leaves open: R81 gives id 0 no register (DESIGN CHOICE, unsafe, log entry 25). -/
def Instr.wellFormed : Instr → Bool
  | .markData => true
  | .markCommand => true
  | .owReset speed => decide (speedLegal speed)
  | .srchAccOn speed => decide (speedLegal speed)
  | .srchAccOff speed => decide (speedLegal speed)
  | .bitWrite speed => decide (speedLegal speed)
  | .searchRom => true
  | .cfgRead _ => true
  | .cfgWriteSlew _ => true
  | .cfgWritePdur _ => true
  | .cfgWriteSpud code => decide (spudLegal code)
  | .cfgWriteW1lt _ => true
  | .cfgWriteW0rt _ => true
  | .cfgWriteLoad _ => true
  | .cfgWriteBaud code => decide (baudLegal code)
  | .resetResponse _ => true
  | .searchEcho _ => true
  | .bitWriteEcho _ => true
  | .crcClr => true
  | .crcBit _ => true
  | .crcByte _ => true
  | .crcRead => true
  | .crcSeq _ => true
  | .crcSeqr _ => true
  | .addrMake _ ser => decide (ser.length = 6)
  | .addrFromBytes _ => true
  | .addrFromSearch _ => true
  | .addrToBytes _ => true
  | .addrFields _ => true
  | .encSearch _ last => decide (last ≤ 64)
  | .decSearch rs => decide (rs.length = 16)
  | .prsClr => true
  | .prsBit _ => true
  | .prsByte _ => true
  | .prsRead => true
  | .configure _ => true
  | .xact _ _ _ => true
  | .detect => true
  | .resetBus => true
  | .search _ last => decide (last ≤ 64)
  | .txrx _ _ => true
  | .enumerate => true
  | .addrParse _ => true
  | .addrRender _ => true
  | .crcStream _ => true
  | .prsStream rs => decide (rs.length = 16)

end Sys2Proof
end

