-- ==== Sys2Proof/Decode.lean ====
section
/-! DEFINITION. Decoding what arrives at the block's ports into instructions, total and rejecting by name, and the encoder
written from the same tables: the selector map (30_encoding R103), the operand domains (R102), the wire bytes (R70 to R83)
and the response bytes (R85, R87, 43_frame_mode R216). -/

namespace Sys2Proof

open Sys2Proof.Machine

/-- Why an item is not an instruction. -/
inductive DecodeError where
  /-- A selector that is not in the map (R104). -/
  | reservedSelector (sel : Byte)
  /-- A missing, extra or ill-typed operand, or one outside its domain (R102). -/
  | operandDomain
  /-- An address literal that does not parse (R115). -/
  | badLiteral
  /-- A byte of no wire row (R79, R95). -/
  | reservedWireByte (b : Byte)
  deriving DecidableEq, Repr

/-! ### Operands (R102) -/

/-- A bit is 0 or 1. -/
def Operand.toBit : Operand → Except DecodeError Bool
  | .int v => if v = 0 then .ok false else if v = 1 then .ok true else .error .operandDomain
  | _ => .error .operandDomain

/-- A number from 0 to 255. -/
def byteOf (v : Int) : Except DecodeError Byte :=
  if 0 ≤ v ∧ v ≤ 255 then .ok (BitVec.ofNat 8 v.toNat) else .error .operandDomain

/-- Numbers from 0 to 255. -/
def bytesOf : List Int → Except DecodeError (List Byte)
  | [] => .ok []
  | v :: vs => (byteOf v).bind fun b => (bytesOf vs).bind fun bs => .ok (b :: bs)

/-- A byte is 0 to 255. -/
def Operand.toByte : Operand → Except DecodeError Byte
  | .int v => byteOf v
  | _ => .error .operandDomain

/-- A byte list has any length, unless the instruction fixes one. -/
def Operand.toBytes : Operand → Except DecodeError (List Byte)
  | .bytes vs => bytesOf vs
  | _ => .error .operandDomain

/-- A word is 64-bit unsigned. -/
def Operand.toWord : Operand → Except DecodeError Word
  | .int v => if 0 ≤ v ∧ v < 18446744073709551616 then .ok (BitVec.ofNat 64 v.toNat) else .error .operandDomain
  | _ => .error .operandDomain

/-- Where a 64-bit address operand is expected, an address literal stands for its ADDR_PARSE result (R115). -/
def Operand.toAddress : Operand → Except DecodeError Word
  | .text cs =>
    match parseAddress cs with
    | .ok v => .ok v
    | .error _ => .error .badLiteral
  | o => o.toWord

/-- An integer of at least 0. -/
def Operand.toNat : Operand → Except DecodeError Nat
  | .int v => if 0 ≤ v then .ok v.toNat else .error .operandDomain
  | _ => .error .operandDomain

/-- COMMAND or DATA. -/
def Operand.toMode : Operand → Except DecodeError Mode
  | .mode m => .ok m
  | _ => .error .operandDomain

/-- The CONFIGURE record: `spu` is a bit, the other fields are CONFIGURE's to check. -/
def Operand.toRecord : Operand → Except DecodeError CfgRecord
  | .record r =>
    (Operand.int r.spu).toBit.bind fun spu =>
      .ok
        { speed := r.speed, slew := r.slew, pdur := r.pdur, spud := r.spud, w1lt := r.w1lt, w0rt := r.w0rt,
          load := r.load, baud := r.baud, spu := spu }
  | _ => .error .operandDomain

/-- The text of ADDR_PARSE. -/
def Operand.toText : Operand → Except DecodeError (List Char)
  | .text cs => .ok cs
  | _ => .error .operandDomain

/-! ### Selectors (R103, R104) -/

/-- The operations of the selector map. -/
inductive Sel where
  | crcClr | crcBit | crcByte | crcRead | crcSeq | crcSeqr | addrMake | addrFromBytes | addrFromSearch | addrToBytes | addrFields | encSearch
  | decSearch | prsClr | prsBit | prsByte | prsRead | configure | xact | detect | resetBus | search | txrx | enumerate
  deriving DecidableEq, Repr

/-- Every operation of the map. -/
def Sel.all : List Sel :=
  [.crcClr, .crcBit, .crcByte, .crcRead, .crcSeq, .crcSeqr, .addrMake, .addrFromBytes,
    .addrFromSearch, .addrToBytes, .addrFields, .encSearch, .decSearch, .prsClr, .prsBit, .prsByte,
    .prsRead, .configure, .xact, .detect, .resetBus, .search, .txrx, .enumerate]

/-- The selector values of R103. -/
def Sel.code : Sel → Byte
  | .crcClr => 0x10#8
  | .crcBit => 0x11#8
  | .crcByte => 0x12#8
  | .crcRead => 0x13#8
  | .crcSeq => 0x14#8
  | .crcSeqr => 0x15#8
  | .addrMake => 0x20#8
  | .addrFromBytes => 0x21#8
  | .addrFromSearch => 0x22#8
  | .addrToBytes => 0x23#8
  | .addrFields => 0x24#8
  | .encSearch => 0x30#8
  | .decSearch => 0x31#8
  | .prsClr => 0x32#8
  | .prsBit => 0x33#8
  | .prsByte => 0x34#8
  | .prsRead => 0x35#8
  | .configure => 0x40#8
  | .xact => 0x41#8
  | .detect => 0x42#8
  | .resetBus => 0x43#8
  | .search => 0x44#8
  | .txrx => 0x45#8
  | .enumerate => 0x50#8

/-- The operation a selector stands for; none is a reserved selector (R104). -/
def selOf (b : Byte) : Option Sel := Sel.all.find? fun k => k.code == b

/-- The operands of an operation, in the order of R103. -/
def readOps (k : Sel) (ops : List Operand) : Except DecodeError Instr :=
  match k, ops with
  | .crcClr, [] => .ok .crcClr
  | .crcBit, [b] => b.toBit.bind fun b => .ok (.crcBit b)
  | .crcByte, [x] => x.toByte.bind fun x => .ok (.crcByte x)
  | .crcRead, [] => .ok .crcRead
  | .crcSeq, [xs] => xs.toBytes.bind fun xs => .ok (.crcSeq xs)
  | .crcSeqr, [xs] => xs.toBytes.bind fun xs => .ok (.crcSeqr xs)
  | .addrMake, [fam, ser] => fam.toByte.bind fun fam => ser.toBytes.bind fun ser => .ok (.addrMake fam ser)
  | .addrFromBytes, [xs] => xs.toBytes.bind fun xs => .ok (.addrFromBytes xs)
  | .addrFromSearch, [acc] => acc.toWord.bind fun acc => .ok (.addrFromSearch acc)
  | .addrToBytes, [v] => v.toAddress.bind fun v => .ok (.addrToBytes v)
  | .addrFields, [v] => v.toAddress.bind fun v => .ok (.addrFields v)
  | .encSearch, [t, last] => t.toWord.bind fun t => last.toNat.bind fun last => .ok (.encSearch t last)
  | .decSearch, [rs] => rs.toBytes.bind fun rs => .ok (.decSearch rs)
  | .prsClr, [] => .ok .prsClr
  | .prsBit, [b] => b.toBit.bind fun b => .ok (.prsBit b)
  | .prsByte, [x] => x.toByte.bind fun x => .ok (.prsByte x)
  | .prsRead, [] => .ok .prsRead
  | .configure, [p] => p.toRecord.bind fun p => .ok (.configure p)
  | .xact, [m, tx, n] => m.toMode.bind fun m => tx.toBytes.bind fun tx => n.toNat.bind fun n => .ok (.xact m tx n)
  | .detect, [] => .ok .detect
  | .resetBus, [] => .ok .resetBus
  | .search, [t, last] => t.toWord.bind fun t => last.toNat.bind fun last => .ok (.search t last)
  | .txrx, [tx, n] => tx.toBytes.bind fun tx => n.toNat.bind fun n => .ok (.txrx tx n)
  | .enumerate, [] => .ok .enumerate
  | _, _ => .error .operandDomain

/-- The operands of a pseudo-operation (R116). -/
def readPseudo (p : Pseudo) (ops : List Operand) : Except DecodeError Instr :=
  match p, ops with
  | .addrParse, [cs] => cs.toText.bind fun cs => .ok (.addrParse cs)
  | .addrRender, [v] => v.toAddress.bind fun v => .ok (.addrRender v)
  | .crcStream, [xs] => xs.toBytes.bind fun xs => .ok (.crcStream xs)
  | .prsStream, [rs] => rs.toBytes.bind fun rs => .ok (.prsStream rs)
  | _, _ => .error .operandDomain

/-! ### Wire bytes -/

/-- The outgoing wire byte of each row of the table (R70 to R83). -/
def readSend (b : Byte) : Option Instr :=
  if b = 0xE1#8 then some .markData
  else if b = 0xE3#8 then some .markCommand
  else if b &&& 0xF3#8 = 0xC1#8 then some (.owReset (b.extractLsb' 2 2))
  else if b &&& 0xF3#8 = 0xB1#8 then some (.srchAccOn (b.extractLsb' 2 2))
  else if b &&& 0xF3#8 = 0xA1#8 then some (.srchAccOff (b.extractLsb' 2 2))
  else if b &&& 0xF3#8 = 0x81#8 then some (.bitWrite (b.extractLsb' 2 2))
  else if b = 0xF0#8 then some .searchRom
  else if b &&& 0xF1#8 = 0x01#8 then some (.cfgRead (b.extractLsb' 1 3))
  else if b &&& 0xF1#8 = 0x11#8 then some (.cfgWriteSlew (b.extractLsb' 1 3))
  else if b &&& 0xF1#8 = 0x21#8 then some (.cfgWritePdur (b.extractLsb' 1 3))
  else if b &&& 0xF1#8 = 0x31#8 then some (.cfgWriteSpud (b.extractLsb' 1 3))
  else if b &&& 0xF1#8 = 0x41#8 then some (.cfgWriteW1lt (b.extractLsb' 1 3))
  else if b &&& 0xF1#8 = 0x51#8 then some (.cfgWriteW0rt (b.extractLsb' 1 3))
  else if b &&& 0xF1#8 = 0x61#8 then some (.cfgWriteLoad (b.extractLsb' 1 3))
  else if b &&& 0xF1#8 = 0x71#8 then some (.cfgWriteBaud (b.extractLsb' 1 3))
  else none

/-- The response row a byte stands in, by what it answers (R85, R87, 43_frame_mode R216). Every byte value is accepted
(R95): the row's check is the instruction's meaning. -/
def readReceive (after : Awaited) (b : Byte) : Instr :=
  match after with
  | .reset => .resetResponse b
  | .search => .searchEcho b
  | .bitWrite => .bitWriteEcho b

/-! ### The decoder -/

/-- The instruction, if its operands lie in their domains (R102). -/
def inDomain (e : DecodeError) (i : Instr) : Except DecodeError Instr :=
  if i.wellFormed then .ok i else .error e

/-- The instruction an item stands for. Reserved selectors, operands outside their domain and bytes of no row are rejected
by name. -/
def decode (item : Item) : Except DecodeError Instr :=
  match item with
  | .request r =>
    match selOf r.sel with
    | some k => (readOps k r.ops).bind (inDomain .operandDomain)
    | none => .error (.reservedSelector r.sel)
  | .pseudo p ops => (readPseudo p ops).bind (inDomain .operandDomain)
  | .send b =>
    match readSend b with
    | some i => inDomain (.reservedWireByte b) i
    | none => .error (.reservedWireByte b)
  | .receive after b => .ok (readReceive after b)

/-! ### The encoder -/

/-- A bit operand. -/
def Operand.ofBit (b : Bool) : Operand := .int (if b then 1 else 0)

/-- A byte operand. -/
def Operand.ofByte (b : Byte) : Operand := .int b.toNat

/-- A byte list operand. -/
def Operand.ofBytes (bs : List Byte) : Operand := .bytes (bs.map fun b => (b.toNat : Int))

/-- A word operand. -/
def Operand.ofWord (v : Word) : Operand := .int v.toNat

/-- An integer operand. -/
def Operand.ofNat (n : Nat) : Operand := .int n

/-- The CONFIGURE record operand. -/
def Operand.ofRecord (p : CfgRecord) : Operand :=
  .record
    { speed := p.speed, slew := p.slew, pdur := p.pdur, spud := p.spud, w1lt := p.w1lt, w0rt := p.w0rt,
      load := p.load, baud := p.baud, spu := if p.spu then 1 else 0 }

/-- A host request for an operation. -/
def requestOf (k : Sel) (ops : List Operand) : Item := .request { sel := k.code, ops := ops }

/-- The item that stands for a well-formed instruction: the request, pseudo-operation or wire byte the spec encodes it
as. -/
def encode (i : Instr) : Item :=
  match i with
  | .markData => .send (marker .data)
  | .markCommand => .send (marker .command)
  | .owReset speed => .send (owResetByte speed)
  | .srchAccOn speed => .send (srchAccOnByte speed)
  | .srchAccOff speed => .send (srchAccOffByte speed)
  | .bitWrite speed => .send (bitWriteByte speed)
  | .searchRom => .send searchRomByte
  | .cfgRead param => .send (cfgReadByte param)
  | .cfgWriteSlew code => .send (cfgByte 1#3 code)
  | .cfgWritePdur code => .send (cfgByte 2#3 code)
  | .cfgWriteSpud code => .send (cfgByte 3#3 code)
  | .cfgWriteW1lt code => .send (cfgByte 4#3 code)
  | .cfgWriteW0rt code => .send (cfgByte 5#3 code)
  | .cfgWriteLoad code => .send (cfgByte 6#3 code)
  | .cfgWriteBaud code => .send (cfgByte 7#3 code)
  | .resetResponse y => .receive .reset y
  | .searchEcho y => .receive .search y
  | .bitWriteEcho y => .receive .bitWrite y
  | .crcClr => requestOf .crcClr []
  | .crcBit b => requestOf .crcBit [Operand.ofBit b]
  | .crcByte x => requestOf .crcByte [Operand.ofByte x]
  | .crcRead => requestOf .crcRead []
  | .crcSeq xs => requestOf .crcSeq [Operand.ofBytes xs]
  | .crcSeqr xs => requestOf .crcSeqr [Operand.ofBytes xs]
  | .addrMake fam ser => requestOf .addrMake [Operand.ofByte fam, Operand.ofBytes ser]
  | .addrFromBytes xs => requestOf .addrFromBytes [Operand.ofBytes xs]
  | .addrFromSearch acc => requestOf .addrFromSearch [Operand.ofWord acc]
  | .addrToBytes v => requestOf .addrToBytes [Operand.ofWord v]
  | .addrFields v => requestOf .addrFields [Operand.ofWord v]
  | .encSearch t last => requestOf .encSearch [Operand.ofWord t, Operand.ofNat last]
  | .decSearch rs => requestOf .decSearch [Operand.ofBytes rs]
  | .prsClr => requestOf .prsClr []
  | .prsBit b => requestOf .prsBit [Operand.ofBit b]
  | .prsByte x => requestOf .prsByte [Operand.ofByte x]
  | .prsRead => requestOf .prsRead []
  | .configure p => requestOf .configure [Operand.ofRecord p]
  | .xact m tx n => requestOf .xact [.mode m, Operand.ofBytes tx, Operand.ofNat n]
  | .detect => requestOf .detect []
  | .resetBus => requestOf .resetBus []
  | .search t last => requestOf .search [Operand.ofWord t, Operand.ofNat last]
  | .txrx tx n => requestOf .txrx [Operand.ofBytes tx, Operand.ofNat n]
  | .enumerate => requestOf .enumerate []
  | .addrParse cs => .pseudo .addrParse [.text cs]
  | .addrRender v => .pseudo .addrRender [Operand.ofWord v]
  | .crcStream xs => .pseudo .crcStream [Operand.ofBytes xs]
  | .prsStream rs => .pseudo .prsStream [Operand.ofBytes rs]

/-! ### A word of the opcode table as an item -/

/-- A record of zeros. -/
def zeroRecord : RawRecord :=
  { speed := .num 0, slew := .num 0, pdur := .num 0, spud := .num 0, w1lt := .num 0, w0rt := .num 0, load := .num 0,
    baud := .num 0, spu := 0 }

/-- Operands of zeros, as many and as long as the operation takes (R103). -/
def zeroOps (k : Sel) : List Operand :=
  match k with
  | .crcClr => []
  | .crcBit => [.int 0]
  | .crcByte => [.int 0]
  | .crcRead => []
  | .crcSeq => [.bytes []]
  | .crcSeqr => [.bytes []]
  | .addrMake => [.int 0, .bytes (List.replicate 6 0)]
  | .addrFromBytes => [.bytes []]
  | .addrFromSearch => [.int 0]
  | .addrToBytes => [.int 0]
  | .addrFields => [.int 0]
  | .encSearch => [.int 0, .int 0]
  | .decSearch => [.bytes (List.replicate 16 0)]
  | .prsClr => []
  | .prsBit => [.int 0]
  | .prsByte => [.int 0]
  | .prsRead => []
  | .configure => [.record zeroRecord]
  | .xact => [.mode .command, .bytes [], .int 0]
  | .detect => []
  | .resetBus => []
  | .search => [.int 0, .int 0]
  | .txrx => [.bytes [], .int 0]
  | .enumerate => []

/-- The response row whose fixed bits a byte has, the one with more of them first. -/
def awaitedOf (b : Byte) : Option Awaited :=
  if b &&& 0xF0#8 = 0xF0#8 then some .search
  else if b &&& 0xF0#8 = 0x80#8 then some .bitWrite
  else if b &&& 0xC0#8 = 0xC0#8 then some .reset
  else none

/-- The item whose first byte has the bits `w`. One byte value can stand in several rows of the table, which belong to
different ports: a host selector is taken first, then an outgoing wire byte, then a response byte (DESIGN CHOICE, log
entry 6). -/
def tableItem (nbits w : Nat) : Item :=
  let b : Byte := BitVec.ofNat 8 (w % 2 ^ nbits)
  if w % 2 ^ nbits < 256 then
    match selOf b with
    | some k => requestOf k (zeroOps k)
    | none =>
      match awaitedOf b with
      | none => .send b
      | some after =>
        match decode (.send b) with
        | .ok _ => .send b
        | .error _ => .receive after b
  else .send 0x00#8

/-- The instruction the decoder reads from an instruction whose first bits are `w`, every other bit being 0. -/
def decodeTableWord (nbits w : Nat) : Option Instr :=
  match decode (tableItem nbits w) with
  | .ok i => some i
  | .error _ => none

end Sys2Proof
end

