-- ==== Sys2Proof/Machine/Flags.lean ====
section
/-! DEFINITION. The block's one flag (10_state R26, R47): it has no other flag and no condition code. -/

namespace Sys2Proof.Machine

/-- PRS_DONE: PRS_IDX = 128 (10_state R26). -/
def Parser.done (p : Parser) : Bool := p.idx == 128#8

end Sys2Proof.Machine
end

