-- ==== Sys2Proof/Machine/Ops.lean ====
section
/-! DEFINITION. The operations over the state that the instructions share: taking a request from the port and answering it,
the environment's draws, the transport primitives (20_memory R51 to R55), the transaction of the frame unit (43_frame_mode
R192), DETECT's body and the recovery Resync (R210, 60_exceptions R266), raising an error (R260), and the search (R216). -/

namespace Sys2Proof.Machine

/-! ### Updates of the state -/

/-- Writes CRC_ACC. -/
def State.setCrc (s : State) (c : Byte) : State := { s with crcAcc := c }

/-- Writes the parser registers. -/
def State.setPrs (s : State) (p : Parser) : State := { s with prs := p }

/-- Writes MODE. -/
def State.setMode (s : State) (m : Mode) : State := { s with mode := m }

/-- Writes the session registers and CFG_VALID (43_frame_mode R197). -/
def State.setSession (s : State) (c : Session) : State := { s with cfg := c, cfgValid := true }

/-- Writes LIVE_BAUD. -/
def State.setLiveBaud (s : State) (b : LiveBaud) : State := { s with liveBaud := b }

/-- Writes the sequencer's registers. -/
def State.setEnum (s : State) (e : Cursor) : State := { s with enum := e }

/-- Records a transport event (20_memory R55). -/
def State.record (s : State) (e : Event) : State := { s with history := s.history ++ [e] }

/-- Sets the transport's pending input (10_state R45). -/
def State.setPending (s : State) (xs : List Byte) : State := { s with pending := xs }

/-- Sets the environment's draws. -/
def State.setEnv (s : State) (e : Env) : State := { s with env := e }

/-- Sets the queue of requests. -/
def State.setQueue (s : State) (q : List Item) : State := { s with queue := q }

/-- Gives the host the response of the operation (30_encoding R101). -/
def State.respond (s : State) (r : Response) : State := { s with response := some r }

/-! ### The host port -/

/-- The next item of the queue, and the state without it (20_memory R65). -/
def fetch (s : State) : Option (Item × State) :=
  match s.queue with
  | [] => none
  | item :: rest => some (item, s.setQueue rest)

/-- The state with an item at the head of the queue. -/
def State.issue (s : State) (item : Item) : State := s.setQueue (item :: s.queue)

/-- The refusal a rejected item gets (60_exceptions R275). -/
def refusalOf : DecodeError → Refusal
  | .reservedSelector sel => .reservedSelector sel
  | .operandDomain => .operandDomain
  | .badLiteral => .badLiteral
  | .reservedWireByte b => .reservedWireByte b

/-- A completed operation with a result (00_scope R13). -/
def done (r : Result) (s : State) : Host.Outcome State Fault Refusal := .next (s.respond (.result r))

/-- An operation that computes a result or raises an error without touching a register. -/
def answer (r : Except Err Result) (s : State) : Host.Outcome State Fault Refusal :=
  match r with
  | .ok r => .next (s.respond (.result r))
  | .error e => .next (s.respond (.error e))

/-! ### Running transport operations: a result, an error, or a read that never completes -/

/-- How a piece of an operation ended, with the state it left. -/
inductive Ran (α : Type) where
  /-- It went on with the value `a`. -/
  | ok (a : α) (s : State)
  /-- It raised `e` (60_exceptions R260): the writes and events made so far stay. -/
  | err (e : Err) (s : State)
  /-- A read hung (60_exceptions R264). -/
  | hung (s : State)

/-- Goes on after a piece that went on. -/
def Ran.bind {α β : Type} (r : Ran α) (k : α → State → Ran β) : Ran β :=
  match r with
  | .ok a s => k a s
  | .err e s => .err e s
  | .hung s => .hung s

/-- `raise E(info)` (60_exceptions R260): nothing more of the operation runs, and nothing is rolled back. -/
def raise {α : Type} (e : Err) (s : State) : Ran α := .err e s

/-- The end of an operation: the host gets the result or the error; a hung read leaves the stuck state (R264). -/
def finish (r : Ran Result) : Host.Outcome State Fault Refusal :=
  match r with
  | .ok a s => .next (s.respond (.result a))
  | .err e s => .next (s.respond (.error e))
  | .hung s => .fault (.hung s)

/-- A transport operation is refused while CFG_VALID = 0 (43_frame_mode R199). -/
def configured (r : State → Ran Result) (s : State) : Host.Outcome State Fault Refusal :=
  if s.cfgValid then finish (r s) else .refused .unconfigured

/-! ### The environment's draws (20_memory R51 to R54; log entry 1) -/

/-- The draw that is `k` places ahead: from the script, and beyond it a free value. -/
def Feed.draw {α : Type} (free : Nat → α) (f : Feed α) (k : Nat) : α :=
  match f.script[k]? with
  | some d => d
  | none => free (f.beyond + (k - f.script.length))

/-- The feed after one draw. -/
def Feed.advance {α : Type} (f : Feed α) : Feed α :=
  match f.script with
  | [] => { script := [], beyond := f.beyond + 1 }
  | _ :: ds => { script := ds, beyond := f.beyond }

/-- The outcome of the flush that is `k` flushes ahead. -/
def State.flushDraw (s : State) (k : Nat) : Bool := s.env.flushes.draw Config.freeFlush k

/-- The outcome of the write that is `k` writes ahead. -/
def State.writeDraw (s : State) (k : Nat) : WriteDraw := s.env.writes.draw Config.freeWrite k

/-- The outcome of the read that is `k` reads ahead. -/
def State.readDraw (s : State) (k : Nat) : ReadDraw := s.env.reads.draw Config.freeRead k

/-- The outcome of the line-control primitive that is `k` of them ahead. -/
def State.lineDraw (s : State) (k : Nat) : Bool := s.env.lines.draw Config.freeLine k

/-- One flush draw is used. -/
def State.usedFlush (s : State) : State := s.setEnv { s.env with flushes := s.env.flushes.advance }

/-- One write draw is used. -/
def State.usedWrite (s : State) : State := s.setEnv { s.env with writes := s.env.writes.advance }

/-- One read draw is used. -/
def State.usedRead (s : State) : State := s.setEnv { s.env with reads := s.env.reads.advance }

/-- One line-control draw is used. -/
def State.usedLine (s : State) : State := s.setEnv { s.env with lines := s.env.lines.advance }

/-! ### The transport primitives -/

/-- `TxFlush()` (20_memory R51). -/
def txFlush (s : State) : Ran Unit :=
  if s.flushDraw 0 then .ok () ((s.usedFlush.setPending []).record (.flush true))
  else raise (.transport .flush) (s.usedFlush.record (.flush false))

/-- How a write of `n` bytes ends under a draw (20_memory R53): a count below `n` is a short write. -/
def writeOutcome (n : Nat) (d : WriteDraw) : WriteResult :=
  match d with
  | .full => .ok
  | .count k => if k < n then .short k else .ok
  | .error => .error

/-- `TxWrite(xs)` (20_memory R53). -/
def txWrite (xs : List Byte) (s : State) : Ran Unit :=
  match writeOutcome xs.length (s.writeDraw 0) with
  | .ok => .ok () (s.usedWrite.record (.write xs .ok))
  | .short k => raise (.transport .shortWrite) (s.usedWrite.record (.write xs (.short k)))
  | .error => raise (.transport .write) (s.usedWrite.record (.write xs .error))

/-- How a read of `n` bytes ends under a draw, with `waiting` the pending input (20_memory R52, 60_exceptions R264). The
drawn bytes join the pending input; `n` of them are delivered in arrival order, or there are too few. -/
def readOutcome (n : Nat) (waiting : List Byte) (d : ReadDraw) : ReadResult :=
  match d with
  | .arrive xs => if n ≤ (waiting ++ xs).length then .bytes ((waiting ++ xs).take n) else .short
  | .error => .error
  | .hang => .hang

/-- The pending input a read leaves (20_memory R62; log entry 11). -/
def readLeaves (n : Nat) (waiting : List Byte) (d : ReadDraw) : List Byte :=
  match d with
  | .arrive xs => if n ≤ (waiting ++ xs).length then (waiting ++ xs).drop n else waiting ++ xs
  | .error => waiting
  | .hang => waiting

/-- The state after a read of `n` bytes. -/
def State.afterRead (s : State) (n : Nat) : State :=
  (s.usedRead.setPending (readLeaves n s.pending (s.readDraw 0))).record
    (.read n (readOutcome n s.pending (s.readDraw 0)))

/-- `RxRead(n)` (20_memory R52, 60_exceptions R264). `RxRead(0)` does not touch the channel (D22). -/
def rxRead (n : Nat) (s : State) : Ran (List Byte) :=
  if n = 0 then .ok [] s
  else
    match readOutcome n s.pending (s.readDraw 0) with
    | .bytes xs => .ok xs (s.afterRead n)
    | .short => raise (.transport .shortRead) (s.afterRead n)
    | .error => raise (.transport .read) (s.afterRead n)
    | .hang => .hung (s.afterRead n)

/-- A line-control primitive (20_memory R54): `event` records it with its outcome. -/
def lineControl (event : Bool → Event) (s : State) : Ran Unit :=
  if s.lineDraw 0 then .ok () (s.usedLine.record (event true))
  else raise (.transport .line) (s.usedLine.record (event false))

/-- `Delay(t)` (20_memory R54, 70_reset_and_hazards R310). -/
def delay (t : Nat) (s : State) : State := s.record (.delay t)

/-! ### DETECT's body and the recovery -/

/-- DETECT after its CFG_VALID check (43_frame_mode R210). -/
def detectBody (s : State) : Ran Bool :=
  (lineControl (.setLine 9600 Config.detectFraming) (s.setMode .command)).bind fun _ s =>
  (lineControl .updateConfig s).bind fun _ s =>
  (lineControl .lineBreak (s.setLiveBaud (.code 0#2))).bind fun _ s =>
  (txFlush (delay Config.tBreakSettle s)).bind fun _ s =>
  (txWrite [owResetByte s.cfg.speed] s).bind fun _ s =>
  (txWrite (probeFrame s.cfg) (delay Config.tResetSettle s)).bind fun _ s =>
  (rxRead 5 s).bind fun y s =>
  .ok (presentOf s.cfg y) s

/-- `Resync()`, then `raise e` (60_exceptions R265, R266): DETECT's body runs, its result or its error is discarded, and
`e` is raised. It never nests (R268). -/
def resyncRaise {α : Type} (e : Err) (s : State) : Ran α :=
  match detectBody s with
  | .ok _ s => raise e s
  | .err _ s => raise e s
  | .hung s => .hung s

/-! ### The frame unit's transaction (43_frame_mode R192) -/

/-- The frame for a payload in mode `m`: a marker goes first when MODE differs (R192, 30_encoding R93). -/
def frameFor (m : Mode) (tx : List Byte) (s : State) : List Byte :=
  if s.mode = m then tx else marker m :: tx

/-- A read failure inside XACT runs Resync and then surfaces (R192, 60_exceptions R265). -/
def recovered (r : Ran (List Byte)) : Ran (List Byte) :=
  match r with
  | .ok rx s => .ok rx s
  | .err e s => resyncRaise e s
  | .hung s => .hung s

/-- XACT after its CFG_VALID check (R192): MODE is recorded when the marker is prepended and never rolled back (R193). -/
def transact (m : Mode) (tx : List Byte) (n : Nat) (s : State) : Ran (List Byte) :=
  (txFlush (s.setMode m)).bind fun _ s' =>
  (txWrite (frameFor m tx s) s').bind fun _ s' =>
  recovered (rxRead n s')

/-- A transaction whose response is the operation's result. -/
def transactBytes (m : Mode) (tx : List Byte) (n : Nat) (s : State) : Ran Result :=
  (transact m tx n s).bind fun rx s => .ok (.bytes rx) s

/-! ### Content checks (43_frame_mode R213, R216; 30_encoding R85, R87) -/

/-- RESET_BUS's checks on the reset response: the mask, then the version (R213, 60_exceptions R271). -/
def checkReset (y : Byte) (s : State) : Ran Result :=
  if y &&& 0xC0#8 ≠ 0xC0#8 then resyncRaise (.invalidResponse .reset y) s
  else
    match versionOf y with
    | some v => .ok (.reset v (y.extractLsb' 0 2)) s
    | none => resyncRaise (.invalidResponse .reset y) s

/-- SEARCH's check on the echo byte (R216). -/
def checkEcho (y : Byte) (s : State) : Ran Unit :=
  if y &&& 0xF0#8 ≠ 0xF0#8 then resyncRaise (.invalidResponse .search y) s else .ok () s

/-! ### Reset and search -/

/-- RESET_BUS after its CFG_VALID check (R213). -/
def resetBody (s : State) : Ran Result :=
  (transact .command [owResetByte s.cfg.speed] 1 s).bind fun rx s => checkReset (rx.getD 0 0#8) s

/-- SEARCH after its checks (R216): the search accumulator and position it finds. -/
def searchBody (t : Word) (last : Nat) (s : State) : Ran (Word × Nat) :=
  (resetBody s).bind fun _ s =>
  (transact .data (searchPayload s.cfg.speed (encodeSearch s.encVariant t last)) 17 s).bind fun rx s =>
  (checkEcho (rx.getD 0 0#8) s).bind fun _ s =>
  .ok (decodeSearch (rx.drop 1)) s

/-! ### Enumeration (44_enumerate R240 to R243) -/

/-- The sequencer's registers after a SEARCH that returned `(t, p)` (R240): the count goes up, a valid candidate is
appended, and the cursor takes the result. -/
def Cursor.after (c : Cursor) (t : Word) (p : Nat) : Cursor where
  tree := t
  pos := BitVec.ofNat 7 p
  iter := c.iter + 1#7
  list :=
    match addrFromSearch t with
    | .ok v => c.list ++ [v]
    | .error _ => c.list

/-- The loop of ENUMERATE. `fuel` is how many SEARCH operations it may still make; it starts at 64, and the loop's own
test on ENUM_ITER stops it at the same time (R241). -/
def enumLoop (fuel : Nat) (s : State) : Ran Result :=
  match fuel with
  | 0 => .ok (.addrs s.enum.list) s
  | fuel + 1 =>
    match searchBody s.enum.tree s.enum.pos.toNat s with
    | .ok r s =>
      let s' := s.setEnum (s.enum.after r.1 r.2)
      if s'.enum.pos = 64#7 ∨ s'.enum.iter = 64#7 then .ok (.addrs s'.enum.list) s' else enumLoop fuel s'
    | .err e s => raise e s
    | .hung s => .hung s

/-- ENUMERATE after its CFG_VALID check (R240). -/
def enumBody (s : State) : Ran Result := enumLoop 64 (s.setEnum Cursor.start)

/-! ### Sequences of operations (30_encoding R116) -/

/-- Goes on after an operation that completed; a fault or a refusal ends the sequence. -/
def andThen (o : Host.Outcome State Fault Refusal) (k : State → Host.Outcome State Fault Refusal) :
    Host.Outcome State Fault Refusal :=
  match o with
  | .next s => k s
  | .fault f => .fault f
  | .refused r => .refused r

/-- One operation for each byte, in order. -/
def forEachByte (op : Byte → State → Host.Outcome State Fault Refusal) (xs : List Byte) (s : State) :
    Host.Outcome State Fault Refusal :=
  match xs with
  | [] => .next s
  | x :: xs => andThen (op x s) (forEachByte op xs)

end Sys2Proof.Machine
end

