-- ==== Sys2Proof/Machine/Address.lean ====
section
/-! DEFINITION. The address validator (41_address). Its operations read and write no register (10_state R22); their errors
never run Resync (60_exceptions R265). -/

namespace Sys2Proof.Machine

/-- ADDR_MAKE (R143); a serial of other than six bytes is outside its domain (30_encoding R102). -/
def execAddrMake (fam : Byte) (ser : List Byte) (s : State) : Host.Outcome State Fault Refusal :=
  if ser.length = 6 then done (.addr (addrOf fam ser)) s else .refused .operandDomain

/-- ADDR_FROM_BYTES (R144). -/
def execAddrFromBytes (xs : List Byte) (s : State) : Host.Outcome State Fault Refusal :=
  answer ((addrFromBytes xs).map .addr) s

/-- ADDR_FROM_SEARCH (R145). -/
def execAddrFromSearch (acc : Word) (s : State) : Host.Outcome State Fault Refusal :=
  answer ((addrFromSearch acc).map .addr) s

/-- ADDR_TO_BYTES (R146): the value is not checked. -/
def execAddrToBytes (v : Word) (s : State) : Host.Outcome State Fault Refusal := done (.bytes (le8 v)) s

/-- ADDR_FIELDS (R147): the value is not checked. -/
def execAddrFields (v : Word) (s : State) : Host.Outcome State Fault Refusal :=
  done (.fields (addrFamily v) (addrSerial v) (addrCrc v)) s

/-- ADDR_PARSE (R150). -/
def execAddrParse (cs : List Char) (s : State) : Host.Outcome State Fault Refusal :=
  answer ((parseAddress cs).map .addr) s

/-- ADDR_RENDER (R151): ADDR_TO_BYTES, formatted as 30_encoding R114 says. -/
def execAddrRender (v : Word) (s : State) : Host.Outcome State Fault Refusal := done (.text (renderAddress v)) s

end Sys2Proof.Machine
end

