-- ==== Sys2Proof/Machine/Codec.lean ====
section
/-! DEFINITION. The search-frame encoder, the one-shot decoder and the bit-serial response parser (42_search_codec). -/

namespace Sys2Proof.Machine

/-- ENC_SEARCH (R161; R162 when the model is built with PROSE); a position above 64 is outside its domain. -/
def execEncSearch (t : Word) (last : Nat) (s : State) : Host.Outcome State Fault Refusal :=
  if last ≤ 64 then done (.bytes (encodeSearch s.encVariant t last)) s else .refused .operandDomain

/-- DEC_SEARCH (R165); a list of other than 16 bytes is outside its domain. -/
def execDecSearch (rs : List Byte) (s : State) : Host.Outcome State Fault Refusal :=
  if rs.length = 16 then done (.decoded (decodeSearch rs).1 (decodeSearch rs).2) s else .refused .operandDomain

/-- PRS_CLR (R169). -/
def execPrsClr (s : State) : Host.Outcome State Fault Refusal := done .none (s.setPrs Parser.start)

/-- PRS_BIT (R170): refused when the parser has consumed its 128 bits. -/
def execPrsBit (b : Bool) (s : State) : Host.Outcome State Fault Refusal :=
  if s.prs.done then .refused .parserFull else done .none (s.setPrs (s.prs.feedBit b))

/-- PRS_BYTE (R171): refused when fewer than eight bits are left. -/
def execPrsByte (x : Byte) (s : State) : Host.Outcome State Fault Refusal :=
  if s.prs.idx > 120#8 then .refused .parserFull else done .none (s.setPrs (s.prs.feedByte x))

/-- PRS_READ (R172). -/
def execPrsRead (s : State) : Host.Outcome State Fault Refusal :=
  done (.parser s.prs.acc s.prs.nxt s.prs.idx s.prs.done) s

/-- PRS_STREAM (R116, R173): PRS_CLR, then a PRS_BYTE for each of the 16 bytes, then PRS_READ. -/
def execPrsStream (rs : List Byte) (s : State) : Host.Outcome State Fault Refusal :=
  if rs.length = 16 then
    andThen (execPrsClr s) fun s => andThen (forEachByte execPrsByte rs s) execPrsRead
  else .refused .operandDomain

end Sys2Proof.Machine
end

