-- ==== Sys2Proof/Machine/Crc.lean ====
section
/-! DEFINITION. The CRC unit (40_crc). -/

namespace Sys2Proof.Machine

/-- CRC_CLR (R122). -/
def execCrcClr (s : State) : Host.Outcome State Fault Refusal := done .none (s.setCrc 0x00#8)

/-- CRC_BIT (R123). -/
def execCrcBit (b : Bool) (s : State) : Host.Outcome State Fault Refusal :=
  done .none (s.setCrc (crcBitStep s.crcAcc b))

/-- CRC_BYTE (R124). -/
def execCrcByte (x : Byte) (s : State) : Host.Outcome State Fault Refusal :=
  done .none (s.setCrc (crcByteStep s.crcAcc x))

/-- CRC_READ (R125). -/
def execCrcRead (s : State) : Host.Outcome State Fault Refusal := done (.byte s.crcAcc) s

/-- CRC_SEQ (R127): CRC_ACC is neither read nor written. -/
def execCrcSeq (xs : List Byte) (s : State) : Host.Outcome State Fault Refusal := done (.byte (crc8 xs)) s

/-- CRC_SEQR (R128): the bytes are consumed in reverse order. -/
def execCrcSeqr (xs : List Byte) (s : State) : Host.Outcome State Fault Refusal := done (.byte (crc8 xs.reverse)) s

/-- CRC_STREAM (R116, R129): CRC_CLR, then a CRC_BYTE for each byte, then CRC_READ. -/
def execCrcStream (xs : List Byte) (s : State) : Host.Outcome State Fault Refusal :=
  andThen (execCrcClr s) fun s => andThen (forEachByte execCrcByte xs s) execCrcRead

end Sys2Proof.Machine
end

