-- ==== Sys2Proof/Machine/Frame.lean ====
section
/-! DEFINITION. The frame unit with mode state (43_frame_mode) and the enumeration sequencer (44_enumerate). -/

namespace Sys2Proof.Machine

/-- CONFIGURE (R197): the first illegal field in check order raises; otherwise every register is stored. -/
def execConfigure (p : CfgRecord) (s : State) : Host.Outcome State Fault Refusal :=
  match firstIllegal p with
  | some f => .next (s.respond (.error (.configValidation f (cfgGet p f) (cfgLegal f))))
  | none => done .none (s.setSession (sessionOf p))

/-- XACT (R192). -/
def execXact (m : Mode) (tx : List Byte) (n : Nat) (s : State) : Host.Outcome State Fault Refusal :=
  configured (transactBytes m tx n) s

/-- DETECT (R210): a read failure runs no Resync (60_exceptions R268). -/
def execDetect (s : State) : Host.Outcome State Fault Refusal :=
  configured (fun s => (detectBody s).bind fun p s => .ok (.present p) s) s

/-- RESET_BUS (R213). -/
def execResetBus (s : State) : Host.Outcome State Fault Refusal := configured resetBody s

/-- SEARCH (R216); a position above 64 is outside its domain. -/
def execSearch (t : Word) (last : Nat) (s : State) : Host.Outcome State Fault Refusal :=
  if last ≤ 64 then
    configured (fun s => (searchBody t last s).bind fun r s => .ok (.decoded r.1 r.2) s) s
  else .refused .operandDomain

/-- TXRX (R219): XACT in DATA mode. -/
def execTxrx (tx : List Byte) (n : Nat) (s : State) : Host.Outcome State Fault Refusal :=
  configured (transactBytes .data tx n) s

/-- ENUMERATE (44_enumerate R240). -/
def execEnumerate (s : State) : Host.Outcome State Fault Refusal := configured enumBody s

end Sys2Proof.Machine
end

