-- ==== Sys2Proof/Machine/Wire.lean ====
section
/-! DEFINITION. The wire rows of the opcode table. An outgoing byte (30_encoding R70 to R83), asked for alone, is one
transaction of the frame unit: the byte is sent in the mode of its class (R71), after a marker if MODE differs, and as many
response bytes are read as the spec gives it (DEDUCED, log entry 4). A response byte (R85, R87, 43_frame_mode R216), looked
at alone, gets the content check the block makes on it (DEDUCED, log entry 5). Both need CFG_VALID = 1, as XACT and the
operations that make the checks do (43_frame_mode R191, R199). -/

namespace Sys2Proof.Machine

/-- MARK_DATA (R70): the marker 0xE1, sent only on a mode change, and MODE takes DATA: the transaction with an empty payload
(43_frame_mode R193, corner case 2). -/
def execMarkData (s : State) : Host.Outcome State Fault Refusal :=
  configured (transactBytes .data [] 0) s

/-- MARK_COMMAND (R70): the marker 0xE3, sent only on a mode change, and MODE takes COMMAND (43_frame_mode R193). -/
def execMarkCommand (s : State) : Host.Outcome State Fault Refusal :=
  configured (transactBytes .command [] 0) s

/-- OW_RESET (R73): a command byte; the chip answers with one byte (R91). Speed code 3 is never
sent (R79, R95). -/
def execOwReset (speed : BitVec 2) (s : State) : Host.Outcome State Fault Refusal :=
  if speedLegal speed then configured (transactBytes .command [owResetByte speed] 1) s
  else .refused (.reservedWireByte (owResetByte speed))

/-- SRCH_ACC_ON (R75): a command byte that produces no response byte. Speed code 3 is never
sent (R79, R95). -/
def execSrchAccOn (speed : BitVec 2) (s : State) : Host.Outcome State Fault Refusal :=
  if speedLegal speed then configured (transactBytes .command [srchAccOnByte speed] 0) s
  else .refused (.reservedWireByte (srchAccOnByte speed))

/-- SRCH_ACC_OFF (R76): a command byte that produces no response byte. Speed code 3 is never
sent (R79, R95). -/
def execSrchAccOff (speed : BitVec 2) (s : State) : Host.Outcome State Fault Refusal :=
  if speedLegal speed then configured (transactBytes .command [srchAccOffByte speed] 0) s
  else .refused (.reservedWireByte (srchAccOffByte speed))

/-- BIT_WRITE (R77): a command byte; the chip answers with one byte (R92). Speed code 3 is never
sent (R79, R95). -/
def execBitWrite (speed : BitVec 2) (s : State) : Host.Outcome State Fault Refusal :=
  if speedLegal speed then configured (transactBytes .command [bitWriteByte speed] 1) s
  else .refused (.reservedWireByte (bitWriteByte speed))

/-- SEARCH_ROM (R78): a data byte for the bus; the chip's echo of it is its one response byte. -/
def execSearchRom (s : State) : Host.Outcome State Fault Refusal :=
  configured (transactBytes .data [searchRomByte] 1) s

/-- CFG_READ (R83): a command byte; the response carries the parameter's code in bits 3-1 (R84). R81 gives id 0 no register to
read, and the spec does not say whether p = 0 (the byte 0x01) is legal: the model sends it and reads one response byte, as for
every other p (DESIGN CHOICE, unsafe, log entry 25). -/
def execCfgRead (param : BitVec 3) (s : State) : Host.Outcome State Fault Refusal :=
  configured (transactBytes .command [cfgReadByte param] 1) s

/-- CFG_WRITE_SLEW (R80, field id 1 of R81): a command byte with one response byte (R84, R92). -/
def execCfgWriteSlew (code : BitVec 3) (s : State) : Host.Outcome State Fault Refusal :=
  configured (transactBytes .command [cfgByte 1#3 code] 1) s

/-- CFG_WRITE_PDUR (R80, field id 2 of R81): a command byte with one response byte (R84, R92). -/
def execCfgWritePdur (code : BitVec 3) (s : State) : Host.Outcome State Fault Refusal :=
  configured (transactBytes .command [cfgByte 2#3 code] 1) s

/-- CFG_WRITE_SPUD (R80, field id 3 of R81): a command byte with one response byte (R84, R92). A code outside its table is never sent (R95). -/
def execCfgWriteSpud (code : BitVec 3) (s : State) : Host.Outcome State Fault Refusal :=
  if spudLegal code then configured (transactBytes .command [cfgByte 3#3 code] 1) s
  else .refused (.reservedWireByte (cfgByte 3#3 code))

/-- CFG_WRITE_W1LT (R80, field id 4 of R81): a command byte with one response byte (R84, R92). -/
def execCfgWriteW1lt (code : BitVec 3) (s : State) : Host.Outcome State Fault Refusal :=
  configured (transactBytes .command [cfgByte 4#3 code] 1) s

/-- CFG_WRITE_W0RT (R80, field id 5 of R81): a command byte with one response byte (R84, R92). -/
def execCfgWriteW0rt (code : BitVec 3) (s : State) : Host.Outcome State Fault Refusal :=
  configured (transactBytes .command [cfgByte 5#3 code] 1) s

/-- CFG_WRITE_LOAD (R80, field id 6 of R81): a command byte with one response byte (R84, R92). -/
def execCfgWriteLoad (code : BitVec 3) (s : State) : Host.Outcome State Fault Refusal :=
  configured (transactBytes .command [cfgByte 6#3 code] 1) s

/-- CFG_WRITE_BAUD (R80, field id 7 of R81): a command byte with one response byte (R84, R92). A code outside its table is never sent (R95). -/
def execCfgWriteBaud (code : BitVec 3) (s : State) : Host.Outcome State Fault Refusal :=
  if baudLegal code then configured (transactBytes .command [cfgByte 7#3 code] 1) s
  else .refused (.reservedWireByte (cfgByte 7#3 code))

/-- RESET_RESPONSE (R85, R86): the mask test and then the version test; a byte that passes gives the version and the status
bits, one that fails gives InvalidResponse after Resync (43_frame_mode R213). -/
def execResetResponse (y : Byte) (s : State) : Host.Outcome State Fault Refusal :=
  configured (checkReset y) s

/-- SEARCH_ECHO (43_frame_mode R216): a byte with the high nibble 0xF passes, any other gives InvalidResponse after
Resync. -/
def execSearchEcho (y : Byte) (s : State) : Host.Outcome State Fault Refusal :=
  configured (fun s => (checkEcho y s).bind fun _ s => .ok .none s) s

/-- BIT_WRITE_ECHO (R87): the byte is compared with the BIT_WRITE byte of the session's speed, in bits 7-2 only. -/
def execBitWriteEcho (y : Byte) (s : State) : Host.Outcome State Fault Refusal :=
  configured (fun s => .ok (.echo (echoMatches y (bitWriteByte s.cfg.speed))) s) s

end Sys2Proof.Machine
end

