-- ==== Sys2Proof/Machine/Dispatch.lean ====
section
/-! DEFINITION. The dispatch: one arm per instruction, one meaning per arm. -/

namespace Sys2Proof.Machine

def exec (i : Instr) (s : State) : Host.Outcome State Fault Refusal :=
  match i with
  | .markData => Sys2Proof.Machine.execMarkData s
  | .markCommand => Sys2Proof.Machine.execMarkCommand s
  | .owReset speed => Sys2Proof.Machine.execOwReset speed s
  | .srchAccOn speed => Sys2Proof.Machine.execSrchAccOn speed s
  | .srchAccOff speed => Sys2Proof.Machine.execSrchAccOff speed s
  | .bitWrite speed => Sys2Proof.Machine.execBitWrite speed s
  | .searchRom => Sys2Proof.Machine.execSearchRom s
  | .cfgRead param => Sys2Proof.Machine.execCfgRead param s
  | .cfgWriteSlew code => Sys2Proof.Machine.execCfgWriteSlew code s
  | .cfgWritePdur code => Sys2Proof.Machine.execCfgWritePdur code s
  | .cfgWriteSpud code => Sys2Proof.Machine.execCfgWriteSpud code s
  | .cfgWriteW1lt code => Sys2Proof.Machine.execCfgWriteW1lt code s
  | .cfgWriteW0rt code => Sys2Proof.Machine.execCfgWriteW0rt code s
  | .cfgWriteLoad code => Sys2Proof.Machine.execCfgWriteLoad code s
  | .cfgWriteBaud code => Sys2Proof.Machine.execCfgWriteBaud code s
  | .resetResponse y => Sys2Proof.Machine.execResetResponse y s
  | .searchEcho y => Sys2Proof.Machine.execSearchEcho y s
  | .bitWriteEcho y => Sys2Proof.Machine.execBitWriteEcho y s
  | .crcClr => Sys2Proof.Machine.execCrcClr s
  | .crcBit b => Sys2Proof.Machine.execCrcBit b s
  | .crcByte x => Sys2Proof.Machine.execCrcByte x s
  | .crcRead => Sys2Proof.Machine.execCrcRead s
  | .crcSeq xs => Sys2Proof.Machine.execCrcSeq xs s
  | .crcSeqr xs => Sys2Proof.Machine.execCrcSeqr xs s
  | .addrMake fam ser => Sys2Proof.Machine.execAddrMake fam ser s
  | .addrFromBytes xs => Sys2Proof.Machine.execAddrFromBytes xs s
  | .addrFromSearch acc => Sys2Proof.Machine.execAddrFromSearch acc s
  | .addrToBytes v => Sys2Proof.Machine.execAddrToBytes v s
  | .addrFields v => Sys2Proof.Machine.execAddrFields v s
  | .encSearch t last => Sys2Proof.Machine.execEncSearch t last s
  | .decSearch rs => Sys2Proof.Machine.execDecSearch rs s
  | .prsClr => Sys2Proof.Machine.execPrsClr s
  | .prsBit b => Sys2Proof.Machine.execPrsBit b s
  | .prsByte x => Sys2Proof.Machine.execPrsByte x s
  | .prsRead => Sys2Proof.Machine.execPrsRead s
  | .configure p => Sys2Proof.Machine.execConfigure p s
  | .xact m tx n => Sys2Proof.Machine.execXact m tx n s
  | .detect => Sys2Proof.Machine.execDetect s
  | .resetBus => Sys2Proof.Machine.execResetBus s
  | .search t last => Sys2Proof.Machine.execSearch t last s
  | .txrx tx n => Sys2Proof.Machine.execTxrx tx n s
  | .enumerate => Sys2Proof.Machine.execEnumerate s
  | .addrParse cs => Sys2Proof.Machine.execAddrParse cs s
  | .addrRender v => Sys2Proof.Machine.execAddrRender v s
  | .crcStream xs => Sys2Proof.Machine.execCrcStream xs s
  | .prsStream rs => Sys2Proof.Machine.execPrsStream rs s

end Sys2Proof.Machine
end

