-- ==== Sys2Proof/Machine/Step.lean ====
section
/-! DEFINITION. One step: the block takes the next item of its queue, decodes it and runs it to completion (00_scope R12).
With nothing in the queue it waits for its host and changes nothing (70_reset_and_hazards R291). -/

namespace Sys2Proof.Machine

def step (s : State) : Host.Outcome State Fault Refusal :=
  match fetch s with
  | none => .next s
  | some (item, s) =>
    match decode item with
    | .ok i => exec i s
    | .error e => .refused (refusalOf e)

/-- The state with the instruction whose first byte is `w`, and whose operands are zeros, at the head of the queue. -/
def State.withFetchWord (s : State) (nbits w : Nat) : State := s.issue (tableItem nbits w)

end Sys2Proof.Machine
end

