-- ==== Sys2Proof/Safety.lean ====
section
/-! DEFINITION. What a legal state is (10_state R25, R29, R30, R41 to R43; 42_search_codec R166, R172) and what is observed of
a run: the byte stream the chip sees (20_memory R55), what it may have received (R53), its last marker (10_state R46),
how often the recovery ran (60_exceptions R268), and where a hung read stops it (R264). -/

namespace Sys2Proof.Machine

/-! ### Legal states -/

/-- The parser registers hold legal values (10_state R25), a lane whose r-bit is not consumed reads 0 in PRS_ACC, and a
position below 64 is a consumed lane whose ROM bit is 0 (42_search_codec R166, R172). -/
abbrev Parser.Legal (p : Parser) : Prop :=
  p.idx.toNat ≤ 128 ∧
  (p.nxt = 64#7 ∨ (2 * p.nxt.toNat + 1 < p.idx.toNat ∧ p.acc.getLsbD p.nxt.toNat = false)) ∧
  ∀ i < 64, p.idx.toNat ≤ 2 * i + 1 → p.acc.getLsbD i = false

/-- The session registers hold codes of the tables (10_state R29, R30; 30_encoding R82). -/
abbrev Session.Legal (c : Session) : Prop := speedLegal c.speed ∧ spudLegal c.spud ∧ baudLegal c.baud

/-- The sequencer's registers hold legal values (10_state R41 to R43), and ENUM_LIST holds valid addresses, at most one for
each SEARCH made (44_enumerate R240). -/
abbrev Cursor.Legal (c : Cursor) : Prop :=
  c.pos.toNat ≤ 64 ∧ c.iter.toNat ≤ 64 ∧ c.list.length ≤ c.iter.toNat ∧ ∀ v ∈ c.list, AddrValid v

/-- Every register holds a legal value; the session registers hold one once CFG_VALID = 1 (10_state R28). -/
abbrev State.Legal (s : State) : Prop :=
  s.prs.Legal ∧ (s.cfgValid = true → s.cfg.Legal) ∧ s.enum.Legal

/-! ### What a run shows -/

/-- The bytes of a successful write; nothing for any other event. -/
def Event.sent : Event → List Byte
  | .write xs .ok => xs
  | _ => []

/-- The outgoing byte stream the chip sees (20_memory R55). -/
def outStream (h : List Event) : List Byte := h.flatMap Event.sent

/-- The bytes an event may have brought to the chip: a failed write may deliver any prefix (20_memory R53). -/
def Event.MayDeliver : Event → List Byte → Prop
  | .write xs .ok, bs => bs = xs
  | .write xs _, bs => bs <+: xs
  | _, bs => bs = []

/-- The byte streams the chip may have received. -/
def MayHaveReceived : List Event → List Byte → Prop
  | [], bs => bs = []
  | e :: h, bs => ∃ a b, bs = a ++ b ∧ e.MayDeliver a ∧ MayHaveReceived h b

/-- The mode a byte selects, if it is a marker (30_encoding R70). -/
def markerMode (b : Byte) : Option Mode :=
  if b = marker .command then some .command else if b = marker .data then some .data else none

/-- The mode of the last marker byte of a stream: the chip's mode, as far as the markers it received set it (10_state
R46). -/
def lastMarker (bs : List Byte) : Option Mode := (bs.filterMap markerMode).getLast?

/-- Every run of DETECT's body records exactly one SetLine, so the SetLine events count its runs. -/
def Event.isSetLine : Event → Bool
  | .setLine _ _ _ => true
  | _ => false

/-- How many times DETECT's body ran. -/
def detectRuns (h : List Event) : Nat := h.countP Event.isSetLine

/-! ### What the environment does, as a premise of a statement -/

/-- The transaction that is `k` transactions ahead gets its frame of `len` bytes to the channel: its flush and its write
succeed (20_memory R51, R53). -/
abbrev Sends (s : State) (k len : Nat) : Prop :=
  s.flushDraw k = true ∧ writeOutcome len (s.writeDraw k) = .ok

/-- The read of `n` bytes that is `k` reads ahead, made after a flush, delivers `rx` (20_memory R52). -/
abbrev Delivers (s : State) (k n : Nat) (rx : List Byte) : Prop := readOutcome n [] (s.readDraw k) = .bytes rx

/-- A transaction that asks for `n` bytes is answered with `rx`; asking for none needs no answer (20_memory R52). -/
abbrev Answered (s : State) (n : Nat) (rx : List Byte) : Prop := (n = 0 ∧ rx = []) ∨ (n ≠ 0 ∧ Delivers s 0 n rx)

/-- A read that is `k` reads ahead does not hang (60_exceptions R264). -/
abbrev NoHang (s : State) (k : Nat) : Prop := s.readDraw k ≠ .hang

/-- DETECT's body, its flush `f` flushes ahead and its writes `w` and `w + 1` writes ahead, gets as far as its read
(43_frame_mode R210). -/
abbrev ReachesRead (s : State) (f w : Nat) : Prop :=
  s.lineDraw 0 = true ∧ s.lineDraw 1 = true ∧ s.lineDraw 2 = true ∧ s.flushDraw f = true ∧
    writeOutcome 1 (s.writeDraw w) = .ok ∧ writeOutcome 5 (s.writeDraw (w + 1)) = .ok

/-- How a write that did not succeed is answered (20_memory R53, 60_exceptions R262). -/
def WriteResult.phase : WriteResult → Phase
  | .error => .write
  | _ => .shortWrite

/-- What DETECT answers, by the first of its primitives that fails (43_frame_mode R210, 60_exceptions R262); nothing when its
read hangs. -/
def detectAnswer (s : State) : Option Response :=
  if s.lineDraw 0 = false ∨ s.lineDraw 1 = false ∨ s.lineDraw 2 = false then some (.error (.transport .line))
  else if s.flushDraw 0 = false then some (.error (.transport .flush))
  else if writeOutcome 1 (s.writeDraw 0) ≠ .ok then
    some (.error (.transport (writeOutcome 1 (s.writeDraw 0)).phase))
  else if writeOutcome 5 (s.writeDraw 1) ≠ .ok then
    some (.error (.transport (writeOutcome 5 (s.writeDraw 1)).phase))
  else
    match readOutcome 5 [] (s.readDraw 0) with
    | .bytes y =>
      some (.result (.present (decide ((y.getD 3 0#8).extractLsb' 1 3 = s.cfg.baud) &&
        decide (y.getD 4 0#8 &&& 0xFC#8 = (0x81#8 ||| (s.cfg.speed.setWidth 8 <<< 2)) &&& 0xFC#8))))
    | .short => some (.error (.transport .shortRead))
    | .error => some (.error (.transport .read))
    | .hang => none

/-- LIVE_BAUD after DETECT or the recovery, from `s` on: 0 once the line set has succeeded (60_exceptions R266). -/
def liveAfterDetect (s : State) : LiveBaud :=
  if s.lineDraw 0 = true ∧ s.lineDraw 1 = true then .code 0#2 else s.liveBaud

/-! ### What a transaction leaves -/

/-- The state after the flush and the write of a transaction (43_frame_mode R192). -/
def State.sent (s : State) (m : Mode) (tx : List Byte) : State :=
  (((s.setMode m).usedFlush.setPending []).record (.flush true)).usedWrite.record (.write (frameFor m tx s) .ok)

/-- The state after a transaction that was answered (43_frame_mode R192). -/
def State.exchanged (s : State) (m : Mode) (tx : List Byte) (n : Nat) : State :=
  if n = 0 then s.sent m tx else (s.sent m tx).afterRead n

/-- The events of a transaction that was answered: flush, write, read, in that order (20_memory R55, R65). -/
def exchangeEvents (frame : List Byte) (n : Nat) (rx : List Byte) : List Event :=
  [.flush true, .write frame .ok] ++ if n = 0 then [] else [.read n (.bytes rx)]

/-- Every register of the block but MODE and LIVE_BAUD is unchanged, and so are the queue and the build parameter. -/
abbrev KeepsRegisters (s t : State) : Prop :=
  t.crcAcc = s.crcAcc ∧ t.prs = s.prs ∧ t.cfgValid = s.cfgValid ∧ t.cfg = s.cfg ∧ t.enum = s.enum ∧
    t.encVariant = s.encVariant ∧ t.queue = s.queue

/-- No transport event happened and no transport state changed between two states. -/
abbrev SameTransport (s t : State) : Prop :=
  t.history = s.history ∧ t.pending = s.pending ∧ t.env = s.env

/-! ### Hung reads -/

/-- None of the events is a hung read (60_exceptions R264). -/
abbrev NoHungRead (es : List Event) : Prop := ∀ n, Event.read n .hang ∉ es

/-- `t` comes after `s` with no hung read between them. -/
def WentOn (s t : State) : Prop := ∃ es, t.history = s.history ++ es ∧ NoHungRead es

/-- `t` comes after `s`, and the only hung read between them is the last event of all. -/
def StoppedOnHang (s t : State) : Prop :=
  ∃ es n, t.history = s.history ++ es ++ [.read n .hang] ∧ NoHungRead es

/-- The outcome is a stuck state that comes from `s` by the events `es` and a hung read of `n` bytes, with MODE at `m` and
LIVE_BAUD at `b`, and with every other register as in `s` (60_exceptions R264; log entry 10). -/
def StuckAt (s : State) (m : Mode) (b : LiveBaud) (es : List Event) (n : Nat) (o : Host.Outcome State Fault Refusal) : Prop :=
  ∃ t, o = .fault (.hung t) ∧ t.mode = m ∧ t.liveBaud = b ∧ t.history = s.history ++ es ++ [.read n .hang] ∧
    KeepsRegisters s t

/-- The events of DETECT's body up to its read, when every primitive before it succeeds (43_frame_mode R210). -/
def detectEvents (c : Session) : List Event :=
  [.setLine 9600 Config.detectFraming true, .updateConfig true, .lineBreak true, .delay Config.tBreakSettle, .flush true,
    .write [owResetByte c.speed] .ok, .delay Config.tResetSettle, .write (probeFrame c) .ok]

end Sys2Proof.Machine
end

