-- ==== Sys2Proof/Certificates/Slice0/Obligations.lean ====
section
/-! DEFINITION. The statements about the block, taken from the numbered rules of the spec. -/

open Sys2Proof Sys2Proof.Machine

/-! ### The step, the decoder and the encoder -/

/-- 00_scope R12, 30_encoding R101, R104: the step takes the first item of the queue, decodes it and runs exactly the decoded
instruction on the state without that item, or refuses it by the decoder's reason; with an empty queue it changes nothing
(70_reset_and_hazards R291). -/
def Obligations.StepRunsTheDecodedInstruction : Prop :=
  ∀ (s : State) (item : Item) (rest : List Item),
    (s.queue = [] → step s = .next s) ∧
    (s.queue = item :: rest →
      (∀ i, decode item = .ok i → step s = exec i (s.setQueue rest)) ∧
      (∀ e, decode item = .error e → step s = .refused (refusalOf e)))

/-- 30_encoding R70 to R103: decoding what a well-formed instruction encodes to gives that instruction, with every operand
at every value of its domain. -/
def Obligations.DecodeOfEncodeIsTheInstruction : Prop :=
  ∀ i : Instr, i.wellFormed = true → decode (encode i) = .ok i

/-- 30_encoding R79, R95, R102: what the decoder accepts has every operand in its domain. -/
def Obligations.DecodedInstructionsAreInDomain : Prop :=
  ∀ (item : Item) (i : Instr), decode item = .ok i → i.wellFormed = true

/-- 30_encoding R70 to R83: an outgoing wire byte that decodes is the byte its instruction encodes to: the decoder drops no
bit of it. -/
def Obligations.WireBytesReencode : Prop :=
  ∀ (b : Byte) (i : Instr), decode (.send b) = .ok i → encode i = .send b

/-- 30_encoding R70 to R103: words written out from the encoding tables decode to the instructions they stand for. -/
def Obligations.SampleWordsDecode : Prop :=
  decode (.send 0xE1#8) = .ok .markData ∧
  decode (.send 0b11000101#8) = .ok (.owReset 1#2) ∧
  decode (.send 0b10111001#8) = .ok (.srchAccOn 2#2) ∧
  decode (.send 0b00001111#8) = .ok (.cfgRead 7#3) ∧
  decode (.send 0b01000101#8) = .ok (.cfgWriteW1lt 2#3) ∧
  decode (.receive .reset 0xCD#8) = .ok (.resetResponse 0xCD#8) ∧
  decode (.request { sel := 0x12#8, ops := [.int 0x28] }) = .ok (.crcByte 0x28#8) ∧
  decode (.request { sel := 0x20#8, ops := [.int 0x28, .bytes [0x61, 0x64, 0x11, 0x8D, 0xF3, 0x02]] }) =
    .ok (.addrMake 0x28#8 [0x61#8, 0x64#8, 0x11#8, 0x8D#8, 0xF3#8, 0x02#8]) ∧
  decode (.request { sel := 0x30#8, ops := [.int 1, .int 63] }) = .ok (.encSearch 1#64 63) ∧
  decode (.request { sel := 0x33#8, ops := [.int 1] }) = .ok (.prsBit true) ∧
  decode (.request { sel := 0x41#8, ops := [.mode .data, .bytes [0x55], .int 1] }) = .ok (.xact .data [0x55#8] 1) ∧
  decode (.request { sel := 0x50#8, ops := [] }) = .ok .enumerate

/-- 30_encoding R104: every selector outside the map of R103 is refused, whatever the operands. -/
def Obligations.ReservedSelectorIsRefused : Prop :=
  ∀ (s : State) (sel : Byte) (ops : List Operand) (rest : List Item),
    s.queue = .request { sel := sel, ops := ops } :: rest →
    sel ∉ [0x10#8, 0x11#8, 0x12#8, 0x13#8, 0x14#8, 0x15#8, 0x20#8, 0x21#8, 0x22#8, 0x23#8, 0x24#8, 0x30#8, 0x31#8,
      0x32#8, 0x33#8, 0x34#8, 0x35#8, 0x40#8, 0x41#8, 0x42#8, 0x43#8, 0x44#8, 0x45#8, 0x50#8] →
    step s = .refused (.reservedSelector sel)

/-- The decoder rejects the item by the reason `e`, and the step that takes it refuses it as `r`. -/
def rejectedAs (e : DecodeError) (r : Refusal) (item : Item) : Prop :=
  decode item = .error e ∧ ∀ (s : State) (rest : List Item), s.queue = item :: rest → step s = .refused r

/-- The item is rejected as OPERAND_DOMAIN (30_encoding R102). -/
def outsideDomain (item : Item) : Prop := rejectedAs .operandDomain .operandDomain item

/-- A request with selector `sel` and operands `ops` is rejected as OPERAND_DOMAIN. -/
def requestOutside (sel : Byte) (ops : List Operand) : Prop := outsideDomain (.request { sel := sel, ops := ops })

/-- 30_encoding R102, 60_exceptions R275: an operand outside its domain is refused, at every place of the selector map (R103)
and of the pseudo-operations (R116) that takes one of its kind, whatever the other operands: bits, bytes, byte lists with a
value outside at any index, words, positions, lengths, the fixed list lengths, the mode and the CONFIGURE record. The meanings
that take a wider value than their operand's domain refuse it too. An address literal in ADDR_TO_BYTES, ADDR_FIELDS or
ADDR_RENDER stands for its ADDR_PARSE result; one that does not parse is refused as badLiteral, and no operation runs (R115,
41_address R150). That only these three take a literal, and that a bad one is this refusal, is the model's reading (DEDUCED, log
entry 20). -/
def Obligations.OperandOutsideItsDomainIsRefused : Prop :=
  (∀ v : Int, v < 0 ∨ 1 < v →
    requestOutside 0x11#8 [.int v] ∧ requestOutside 0x33#8 [.int v] ∧
    ∀ r : RawRecord, r.spu = v → requestOutside 0x40#8 [.record r]) ∧
  (∀ v : Int, v < 0 ∨ 255 < v →
    requestOutside 0x12#8 [.int v] ∧ requestOutside 0x34#8 [.int v] ∧ ∀ ser, requestOutside 0x20#8 [.int v, ser]) ∧
  (∀ vs : List Int, (∃ v ∈ vs, v < 0 ∨ 255 < v) →
    requestOutside 0x14#8 [.bytes vs] ∧ requestOutside 0x15#8 [.bytes vs] ∧ requestOutside 0x21#8 [.bytes vs] ∧
    requestOutside 0x31#8 [.bytes vs] ∧ (∀ fam, requestOutside 0x20#8 [fam, .bytes vs]) ∧
    (∀ m n, requestOutside 0x41#8 [m, .bytes vs, n]) ∧ (∀ n, requestOutside 0x45#8 [.bytes vs, n]) ∧
    outsideDomain (.pseudo .crcStream [.bytes vs]) ∧ outsideDomain (.pseudo .prsStream [.bytes vs])) ∧
  (∀ v : Int, v < 0 ∨ 2 ^ 64 ≤ v →
    requestOutside 0x22#8 [.int v] ∧ requestOutside 0x23#8 [.int v] ∧ requestOutside 0x24#8 [.int v] ∧
    (∀ last, requestOutside 0x30#8 [.int v, last]) ∧ (∀ last, requestOutside 0x44#8 [.int v, last]) ∧
    outsideDomain (.pseudo .addrRender [.int v])) ∧
  (∀ v : Int, v < 0 ∨ 64 < v →
    ∀ t, requestOutside 0x30#8 [t, .int v] ∧ requestOutside 0x44#8 [t, .int v]) ∧
  (∀ v : Int, v < 0 →
    (∀ m tx, requestOutside 0x41#8 [m, tx, .int v]) ∧ ∀ tx, requestOutside 0x45#8 [tx, .int v]) ∧
  (∀ vs : List Int, vs.length ≠ 6 → ∀ fam, requestOutside 0x20#8 [fam, .bytes vs]) ∧
  (∀ vs : List Int, vs.length ≠ 16 →
    requestOutside 0x31#8 [.bytes vs] ∧ outsideDomain (.pseudo .prsStream [.bytes vs])) ∧
  (∀ m tx n, (∀ mode, m ≠ .mode mode) → requestOutside 0x41#8 [m, tx, n]) ∧
  (∀ p, (∀ r, p ≠ .record r) → requestOutside 0x40#8 [p]) ∧
  (∀ (t : Word) (last : Nat) (s : State), 64 < last →
    exec (.encSearch t last) s = .refused .operandDomain ∧ exec (.search t last) s = .refused .operandDomain) ∧
  (∀ (fam : Byte) (ser : List Byte) (s : State), ser.length ≠ 6 →
    exec (.addrMake fam ser) s = .refused .operandDomain) ∧
  (∀ (rs : List Byte) (s : State), rs.length ≠ 16 →
    exec (.decSearch rs) s = .refused .operandDomain ∧ exec (.prsStream rs) s = .refused .operandDomain) ∧
  -- address literals
  ∀ cs : List Char,
    (∀ (s : State) (v : Word), exec (.addrParse cs) s = .next (s.respond (.result (.addr v))) →
      decode (.request { sel := 0x23#8, ops := [.text cs] }) = .ok (.addrToBytes v) ∧
      decode (.request { sel := 0x24#8, ops := [.text cs] }) = .ok (.addrFields v) ∧
      decode (.pseudo .addrRender [.text cs]) = .ok (.addrRender v)) ∧
    (∀ (s : State) (e : Err), exec (.addrParse cs) s = .next (s.respond (.error e)) →
      rejectedAs .badLiteral .badLiteral (.request { sel := 0x23#8, ops := [.text cs] }) ∧
      rejectedAs .badLiteral .badLiteral (.request { sel := 0x24#8, ops := [.text cs] }) ∧
      rejectedAs .badLiteral .badLiteral (.pseudo .addrRender [.text cs])) ∧
    requestOutside 0x22#8 [.text cs] ∧ (∀ last, requestOutside 0x30#8 [.text cs, last]) ∧
    ∀ last, requestOutside 0x44#8 [.text cs, last]

/-! ### Reset and the legal values of the registers -/

/-- 70_reset_and_hazards R290, the values the spec gives: the session registers hold none and are left out (log entry 2). -/
def Obligations.ResetLeavesTheStatedValues : Prop :=
  State.reset.crcAcc = 0x00#8 ∧ State.reset.prs.idx = 0#8 ∧ State.reset.prs.acc = 0#64 ∧ State.reset.prs.nxt = 64#7 ∧
  State.reset.prs.dl = false ∧ State.reset.prs.done = false ∧ State.reset.mode = .command ∧
  State.reset.cfgValid = false ∧ State.reset.liveBaud = .unknown ∧ State.reset.enum.tree = 0#64 ∧
  State.reset.enum.pos = 0#7 ∧ State.reset.enum.iter = 0#7 ∧ State.reset.enum.list = [] ∧ State.reset.history = [] ∧
  State.reset.encVariant = .vector

/-- 10_state R25, R29, R30, R41 to R43: the state after reset is legal. -/
def Obligations.ResetIsLegal : Prop := State.reset.Legal

/-- 10_state R25, R28 to R30, R41 to R43, 42_search_codec R166, R172, 44_enumerate R240: every step keeps the registers
within their legal values, PRS_ACC zero above the consumed lanes, PRS_NXT at an untaken lane, and ENUM_LIST a list of valid
addresses no longer than ENUM_ITER; so does a step that ends in a hung read. -/
def Obligations.StepKeepsLegalValues : Prop :=
  ∀ s : State, s.Legal →
    (∀ t, step s = .next t → t.Legal) ∧ (∀ t, step s = .fault (.hung t) → t.Legal)

/-! ### The CRC unit -/

/-- 40_crc R121 to R125: CRC_CLR writes 0x00; CRC_BIT shifts right and XORs 0x8C when bit 0 of CRC_ACC differs from the
operand; CRC_BYTE is eight CRC_BIT steps from bit 0 up; CRC_READ returns CRC_ACC. Nothing else changes. -/
def Obligations.CrcUnitStreams : Prop :=
  ∀ (s : State) (b : Bool) (x : Byte),
    exec .crcClr s = .next ((s.setCrc 0x00#8).respond (.result .none)) ∧
    exec (.crcBit b) s =
      .next ((s.setCrc (if (s.crcAcc.getLsbD 0 ^^ b) then (s.crcAcc >>> 1) ^^^ 0x8C#8 else s.crcAcc >>> 1)).respond
        (.result .none)) ∧
    exec (.crcByte x) s =
      andThen (exec (.crcBit (x.getLsbD 0)) s) (fun s => andThen (exec (.crcBit (x.getLsbD 1)) s) (fun s =>
      andThen (exec (.crcBit (x.getLsbD 2)) s) (fun s => andThen (exec (.crcBit (x.getLsbD 3)) s) (fun s =>
      andThen (exec (.crcBit (x.getLsbD 4)) s) (fun s => andThen (exec (.crcBit (x.getLsbD 5)) s) (fun s =>
      andThen (exec (.crcBit (x.getLsbD 6)) s) (exec (.crcBit (x.getLsbD 7))))))))) ∧
    (∃ c, exec (.crcByte x) s = .next ((s.setCrc c).respond (.result .none))) ∧
    exec .crcRead s = .next (s.respond (.result (.byte s.crcAcc)))

/-- 40_crc R121: the table-driven form gives the same value: a byte step from `c` on `x` is the byte step from 0 on
`c XOR x`. -/
def Obligations.TableDrivenCrcAgrees : Prop := ∀ c x : Byte, crcByteStep c x = crcByteStep 0x00#8 (c ^^^ x)

/-- 40_crc R126 to R128: CRC_SEQ folds the byte step over the list from 0x00, CRC_SEQR over the reversed list; CRC_ACC is
untouched; CRC_SEQR of a list is CRC_SEQ of its reverse, 0x00 for the empty list and CRC_SEQ for one byte; the source's two
vectors; and the two examples of R128. -/
def Obligations.CrcOfASequence : Prop :=
  ∀ (s : State) (xs : List Byte),
    exec (.crcSeq xs) s = .next (s.respond (.result (.byte (xs.foldl crcByteStep 0x00#8)))) ∧
    exec (.crcSeqr xs) s = .next (s.respond (.result (.byte (xs.reverse.foldl crcByteStep 0x00#8)))) ∧
    exec (.crcSeqr xs) s = exec (.crcSeq xs.reverse) s ∧
    exec (.crcSeqr []) s = .next (s.respond (.result (.byte 0x00#8))) ∧
    (∀ x, exec (.crcSeqr [x]) s = exec (.crcSeq [x]) s) ∧
    exec (.crcSeqr [0x00#8, 0x08#8, 0x03#8, 0x36#8, 0x07#8, 0x45#8, 0x10#8]) s =
      .next (s.respond (.result (.byte 0xE7#8))) ∧
    exec (.crcSeqr [0x10#8, 0x45#8, 0x07#8, 0x36#8, 0x03#8, 0x08#8, 0x00#8]) s =
      .next (s.respond (.result (.byte 0x2D#8))) ∧
    exec (.crcSeq [0x10#8, 0x45#8, 0x07#8, 0x36#8, 0x03#8, 0x08#8, 0x00#8]) s = .next (s.respond (.result (.byte 0xE7#8))) ∧
    exec (.crcSeq [0x01#8, 0x00#8, 0x45#8, 0x07#8, 0x36#8, 0x03#8, 0x08#8]) s = .next (s.respond (.result (.byte 0x18#8)))

/-- 41_address R142, 40_crc R127: the CRC of a message with a byte appended is 0x00 exactly when that byte is the message's
CRC. -/
def Obligations.AppendedCrcGivesZero : Prop :=
  ∀ (m : List Byte) (y : Byte), crc8 (m ++ [y]) = 0x00#8 ↔ y = crc8 m

/-- 40_crc R129: CRC_STREAM is CRC_CLR, a CRC_BYTE for each byte in order and CRC_READ; it returns CRC8 of its list and leaves
it in CRC_ACC, and changes nothing else. -/
def Obligations.CrcStreamReturnsTheSequence : Prop :=
  ∀ (s : State) (xs : List Byte),
    exec (.crcStream xs) s =
      andThen (xs.foldl (fun o x => andThen o (exec (.crcByte x))) (exec .crcClr s)) (exec .crcRead) ∧
    exec (.crcStream xs) s = .next ((s.setCrc (crc8 xs)).respond (.result (.byte (crc8 xs))))

/-! ### The address validator -/

/-- 41_address R143: ADDR_MAKE returns the value whose byte form is the family, the six serial bytes and their CRC; it is
valid, and no register changes. -/
def Obligations.AddrMakeBuildsAValidAddress : Prop :=
  ∀ (s : State) (fam : Byte) (ser : List Byte), ser.length = 6 →
    ∃ v, exec (.addrMake fam ser) s = .next (s.respond (.result (.addr v))) ∧
      le8 v = fam :: ser ++ [crc8 (fam :: ser)] ∧ AddrValid v

/-- 41_address R144, 60_exceptions R270: ADDR_FROM_BYTES checks the length, then the CRC; what passes is a valid value with
that byte form, which ADDR_TO_BYTES gives back (R149). No register changes on any path. -/
def Obligations.AddrFromBytesValidates : Prop :=
  ∀ (s : State) (xs : List Byte),
    (xs.length ≠ 8 → exec (.addrFromBytes xs) s = .next (s.respond (.error (.invalidLength xs.length)))) ∧
    (∀ m y, xs = m ++ [y] → m.length = 7 → crc8 m ≠ y →
      exec (.addrFromBytes xs) s = .next (s.respond (.error (.crcMismatch (crc8 m) y)))) ∧
    (∀ m, xs = m ++ [crc8 m] → m.length = 7 →
      ∃ v, exec (.addrFromBytes xs) s = .next (s.respond (.result (.addr v))) ∧ AddrValid v ∧
        exec (.addrToBytes v) s = .next (s.respond (.result (.bytes xs))))

/-- 41_address R145: ADDR_FROM_SEARCH returns a valid accumulator unchanged and reports the two CRC bytes of an invalid
one. -/
def Obligations.AddrFromSearchValidates : Prop :=
  ∀ (s : State) (acc : Word),
    (AddrValid acc → exec (.addrFromSearch acc) s = .next (s.respond (.result (.addr acc)))) ∧
    (¬AddrValid acc → exec (.addrFromSearch acc) s =
      .next (s.respond (.error (.crcMismatch (crc8 ((le8 acc).take 7)) (addrCrc acc)))))

/-- 41_address R148: the reversed CRC over the big-endian view equals the forward CRC, and both constructors give the same
answer. -/
def Obligations.BothByteOrdersAgree : Prop :=
  ∀ (s : State) (v : Word),
    exec (.crcSeqr ((le8 v).reverse.drop 1)) s = exec (.crcSeq ((le8 v).take 7)) s ∧
    exec (.addrFromSearch v) s = exec (.addrFromBytes (le8 v)) s

/-- 41_address R142: an address is valid exactly when the CRC over all eight bytes is 0x00. -/
def Obligations.ValidIffResidueIsZero : Prop := ∀ v : Word, AddrValid v ↔ crc8 (le8 v) = 0x00#8

/-- 41_address R146, R147: ADDR_TO_BYTES gives the bytes of the value, least significant first, and ADDR_FIELDS its family,
serial and CRC; neither checks the value or writes a register. -/
def Obligations.AddrAccessorsReadTheFields : Prop :=
  ∀ (s : State) (v : Word),
    exec (.addrToBytes v) s = .next (s.respond (.result (.bytes [v.extractLsb' 0 8, v.extractLsb' 8 8, v.extractLsb' 16 8,
      v.extractLsb' 24 8, v.extractLsb' 32 8, v.extractLsb' 40 8, v.extractLsb' 48 8, v.extractLsb' 56 8]))) ∧
    exec (.addrFields v) s = .next (s.respond (.result (.fields (v.extractLsb' 0 8) (v.extractLsb' 8 48)
      (v.extractLsb' 56 8))))

/-- 41_address R150, 60_exceptions R270: ADDR_PARSE checks the field count, the family, the serial and the CRC field in that
order, and then compares the CRC, skipping the comparison for `--`. No register changes on any path. -/
def Obligations.AddrParseChecksInOrder : Prop :=
  ∀ (s : State) (cs : List Char),
    ((splitDots cs).length ≠ 3 →
      exec (.addrParse cs) s = .next (s.respond (.error (.invalidFormat (splitDots cs).length)))) ∧
    (∀ f g c, splitDots cs = [f, g, c] →
      ((∀ fam, hexField f ≠ some [fam]) →
        exec (.addrParse cs) s = .next (s.respond (.error .invalidFamily))) ∧
      (∀ fam, hexField f = some [fam] →
        ((∀ ser, hexField g = some ser → ¬(1 ≤ ser.length ∧ ser.length ≤ 6)) →
          exec (.addrParse cs) s = .next (s.respond (.error .invalidSerial))) ∧
        (∀ ser, hexField g = some ser → 1 ≤ ser.length → ser.length ≤ 6 →
          ∃ v, le8 v = (fam :: (List.replicate (6 - ser.length) 0x00#8 ++ ser)) ++
              [crc8 (fam :: (List.replicate (6 - ser.length) 0x00#8 ++ ser))] ∧
            (c = ['-', '-'] → exec (.addrParse cs) s = .next (s.respond (.result (.addr v)))) ∧
            (c ≠ ['-', '-'] → (∀ y, hexField c ≠ some [y]) →
              exec (.addrParse cs) s = .next (s.respond (.error .invalidCrc))) ∧
            (∀ y, c ≠ ['-', '-'] → hexField c = some [y] → y ≠ addrCrc v →
              exec (.addrParse cs) s = .next (s.respond (.error (.crcMismatch (addrCrc v) y)))) ∧
            (c ≠ ['-', '-'] → hexField c = some [addrCrc v] →
              exec (.addrParse cs) s = .next (s.respond (.result (.addr v)))))))

/-- 30_encoding R114, 41_address R150, R151: parsing the rendering of a value gives the value back when it is valid, and
CrcMismatch when it is not. -/
def Obligations.RenderedAddressParses : Prop :=
  ∀ (s : State) (v : Word),
    exec (.addrRender v) s = .next (s.respond (.result (.text (renderAddress v)))) ∧
    (AddrValid v → exec (.addrParse (renderAddress v)) s = .next (s.respond (.result (.addr v)))) ∧
    (¬AddrValid v → exec (.addrParse (renderAddress v)) s =
      .next (s.respond (.error (.crcMismatch (crc8 ((le8 v).take 7)) (addrCrc v)))))

/-- A lower-case hex digit (30_encoding R114). -/
abbrev lowerHex (c : Char) : Prop := (48 ≤ c.toNat ∧ c.toNat ≤ 57) ∨ (97 ≤ c.toNat ∧ c.toNat ≤ 102)

/-- 41_address R151: a text in canonical form (two lower-case family digits, twelve serial digits, two lower-case CRC
digits) that ADDR_PARSE accepts is rendered as itself. -/
def Obligations.CanonicalTextRoundTrips : Prop :=
  ∀ (s : State) (fam ser crc : List Char) (v : Word),
    fam.length = 2 → ser.length = 12 → crc.length = 2 → (∀ c ∈ fam ++ ser ++ crc, lowerHex c) →
    exec (.addrParse (fam ++ '.' :: ser ++ '.' :: crc)) s = .next (s.respond (.result (.addr v))) →
    exec (.addrRender v) s = .next (s.respond (.result (.text (fam ++ '.' :: ser ++ '.' :: crc))))

/-! ### The search codec -/

/-- 42_search_codec R161: the VECTOR encoder puts t[i] into the r-bit of every lane i up to last, 0 into the others, and the
marker into the d-bit of lane last when last is below 64; no register changes; a last above 64 is refused. -/
def Obligations.VectorRequestLanes : Prop :=
  ∀ (s : State) (t : Word) (last : Nat), s.encVariant = .vector →
    (64 < last → exec (.encSearch t last) s = .refused .operandDomain) ∧
    (last ≤ 64 →
      ∃ q, exec (.encSearch t last) s = .next (s.respond (.result (.bytes q))) ∧ q.length = 16 ∧
        ∀ i < 64, (fromLE16 q).getLsbD (2 * i + 1) = (decide (i ≤ last) && t.getLsbD i) ∧
          (fromLE16 q).getLsbD (2 * i) = (decide (last < 64) && decide (i = last)))

/-- 42_search_codec R162: a model built with PROSE puts t[i] into the r-bit of every lane below last and the marker into the
r-bit of lane last; every d-bit is 0. -/
def Obligations.ProseRequestLanes : Prop :=
  ∀ (s : State) (t : Word) (last : Nat), s.encVariant = .prose → last ≤ 64 →
    ∃ q, exec (.encSearch t last) s = .next (s.respond (.result (.bytes q))) ∧ q.length = 16 ∧
      ∀ i < 64, (fromLE16 q).getLsbD (2 * i + 1) = ((decide (i < last) && t.getLsbD i) || decide (i = last)) ∧
        (fromLE16 q).getLsbD (2 * i) = false

/-- 42_search_codec R163: under either variant no byte of a request is a mode marker. -/
def Obligations.RequestHoldsNoMarker : Prop :=
  ∀ (variant : EncVariant) (t : Word) (last : Nat), ∀ b ∈ encodeSearch variant t last, b ≠ 0xE1#8 ∧ b ≠ 0xE3#8

/-- 42_search_codec R164: below 64 the VECTOR request depends only on t[0..last] and last; at 64 it depends on all of t; and
the variants agree exactly at 64. -/
def Obligations.RequestDependsOnTheDecidedBits : Prop :=
  (∀ (t u : Word) (last : Nat), last < 64 → (∀ i ≤ last, t.getLsbD i = u.getLsbD i) →
    encodeSearch .vector t last = encodeSearch .vector u last) ∧
  (∀ t u : Word, encodeSearch .vector t 64 = encodeSearch .vector u 64 → t = u) ∧
  (∀ (t : Word) (last : Nat), last ≤ 64 → (encodeSearch .vector t last = encodeSearch .prose t last ↔ last = 64))

/-- 42_search_codec R165, R166: DEC_SEARCH puts the r-bit of lane i into bit i and returns the lowest lane with d = 1 and
r = 0, or 64 when there is none; no register changes; a list of other than 16 bytes is refused. -/
def Obligations.DecoderReadsTheLanes : Prop :=
  ∀ (s : State) (rs : List Byte),
    (rs.length ≠ 16 → exec (.decSearch rs) s = .refused .operandDomain) ∧
    (rs.length = 16 →
      ∃ acc nxt, exec (.decSearch rs) s = .next (s.respond (.result (.decoded acc nxt))) ∧
        (∀ i < 64, acc.getLsbD i = (fromLE16 rs).getLsbD (2 * i + 1)) ∧
        ((nxt = 64 ∧ ∀ i < 64, ¬((fromLE16 rs).getLsbD (2 * i) = true ∧ (fromLE16 rs).getLsbD (2 * i + 1) = false)) ∨
          (nxt < 64 ∧ (fromLE16 rs).getLsbD (2 * nxt) = true ∧ (fromLE16 rs).getLsbD (2 * nxt + 1) = false ∧
            acc.getLsbD nxt = false ∧
            ∀ i < nxt, ¬((fromLE16 rs).getLsbD (2 * i) = true ∧ (fromLE16 rs).getLsbD (2 * i + 1) = false))))

/-- The mask M of 42_search_codec R167: bits 0 to last. -/
def maskUpTo (last : Nat) : Word := if last = 64 then BitVec.allOnes 64 else (1#64 <<< (last + 1)) - 1#64

/-- 42_search_codec R167: decoding a request gives the tree bits up to last, and the position exactly when last is 64 or
t[last] is 0; under PROSE it gives the bits below last with bit last set, and 64. -/
def Obligations.RequestRoundTrip : Prop :=
  ∀ (t : Word) (last : Nat), last ≤ 64 →
    decodeSearch (encodeSearch .vector t last) =
      (t &&& maskUpTo last, if last < 64 ∧ t.getLsbD last = false then last else 64) ∧
    decodeSearch (encodeSearch .prose t last) =
      ((t &&& (if last = 64 then BitVec.allOnes 64 else (1#64 <<< last) - 1#64)) |||
        (if last < 64 then 1#64 <<< last else 0#64), 64)

/-! ### The bit-serial parser -/

/-- 42_search_codec R169, R172: PRS_CLR writes the sentinel start; PRS_READ returns PRS_ACC, PRS_NXT, PRS_IDX and PRS_DONE
and writes no register. -/
def Obligations.ParserClearsAndReads : Prop :=
  ∀ s : State,
    exec .prsClr s = .next ((s.setPrs { idx := 0#8, acc := 0#64, nxt := 64#7, dl := false }).respond (.result .none)) ∧
    exec .prsRead s =
      .next (s.respond (.result (.parser s.prs.acc s.prs.nxt s.prs.idx (decide (s.prs.idx = 128#8)))))

/-- 42_search_codec R170: PRS_BIT is refused at 128 bits; at an even index it latches the d-bit; at an odd one it
accumulates the r-bit of lane PRS_IDX >> 1 and takes that lane as the position if it is the first with d = 1 and r = 0. -/
def Obligations.ParserTakesABit : Prop :=
  ∀ (s : State) (b : Bool),
    (s.prs.idx = 128#8 → exec (.prsBit b) s = .refused .parserFull) ∧
    (s.prs.idx ≠ 128#8 → ∃ p, exec (.prsBit b) s = .next ((s.setPrs p).respond (.result .none)) ∧
      p.idx = s.prs.idx + 1#8 ∧
      (s.prs.idx.getLsbD 0 = false → p.dl = b ∧ p.acc = s.prs.acc ∧ p.nxt = s.prs.nxt) ∧
      (s.prs.idx.getLsbD 0 = true → p.dl = s.prs.dl ∧
        (∀ j < 64, p.acc.getLsbD j = (s.prs.acc.getLsbD j || (b && decide (j = (s.prs.idx >>> 1).toNat)))) ∧
        (s.prs.dl = true ∧ b = false ∧ s.prs.nxt = 64#7 → p.nxt = (s.prs.idx >>> 1).setWidth 7) ∧
        (¬(s.prs.dl = true ∧ b = false ∧ s.prs.nxt = 64#7) → p.nxt = s.prs.nxt)))

/-- 42_search_codec R171: PRS_BYTE is refused past 120 bits; otherwise it is the eight PRS_BIT of its bits, bit 0 first. -/
def Obligations.ParserByteIsEightBits : Prop :=
  ∀ (s : State) (x : Byte),
    (s.prs.idx > 120#8 → exec (.prsByte x) s = .refused .parserFull) ∧
    (s.prs.idx ≤ 120#8 →
      (∃ p, exec (.prsByte x) s = .next ((s.setPrs p).respond (.result .none)) ∧ p.idx = s.prs.idx + 8#8) ∧
      exec (.prsByte x) s =
        (List.range 8).foldl (fun o k => andThen o (exec (.prsBit (x.getLsbD k)))) (.next s))

/-- 42_search_codec R168, R173: PRS_STREAM is PRS_CLR, a PRS_BYTE for each of the sixteen bytes in order and PRS_READ; from
any state it ends with exactly what the one-shot decoder gives, PRS_IDX = 128 and PRS_DONE = 1. -/
def Obligations.ParserStreamMatchesTheDecoder : Prop :=
  ∀ (s : State) (rs : List Byte), rs.length = 16 →
    exec (.prsStream rs) s =
      andThen (rs.foldl (fun o x => andThen o (exec (.prsByte x))) (exec .prsClr s)) (exec .prsRead) ∧
    ∃ p, exec (.prsStream rs) s = .next ((s.setPrs p).respond (.result (.parser p.acc p.nxt 128#8 true))) ∧
      p.acc = (decodeSearch rs).1 ∧ p.nxt.toNat = (decodeSearch rs).2 ∧ p.idx = 128#8

/-! ### Configuration -/

/-- 30_encoding R82: the legal value tables, the first value of each having code 0; FOREVER has code 7 in the pulse table
and SPU_FOREVER_CODE, 6 or 7, in the strong-pull-up table. -/
def Obligations.ConfigurationTables : Prop :=
  cfgLegal .speed = [.token .standard, .token .flexible, .token .overdrive] ∧
  cfgLegal .slew = [.num 15000, .num 2200, .num 1650, .num 1370, .num 1100, .num 830, .num 700, .num 550] ∧
  cfgLegal .pdur =
    [.num 32, .num 64, .num 128, .num 256, .num 512, .num 1024, .num 2048, .token .forever] ∧
  cfgLegal .spud =
    [.num 16400, .num 65500, .num 131000, .num 262000, .num 524000, .num 1048000, .token .forever] ∧
  cfgLegal .w1lt = [.num 8, .num 9, .num 10, .num 11, .num 12, .num 13, .num 14, .num 15] ∧
  cfgLegal .w0rt = [.num 3, .num 4, .num 5, .num 6, .num 7, .num 8, .num 9, .num 10] ∧
  cfgLegal .load =
    [.num 1800, .num 2100, .num 2400, .num 2700, .num 3000, .num 3300, .num 3600, .num 3900] ∧
  cfgLegal .baud = [.num 9600, .num 19200, .num 57600, .num 115200] ∧
  (Config.spuForeverCode = 6#3 ∨ Config.spuForeverCode = 7#3)

/-- The first value of every table, without the flag (43_frame_mode R198). -/
def firstValues : CfgRecord where
  speed := .token .standard
  slew := .num 15000
  pdur := .num 32
  spud := .num 16400
  w1lt := .num 8
  w0rt := .num 3
  load := .num 1800
  baud := .num 9600
  spu := false

/-- Code 0 in every session register. -/
def zeroCodes : Session where
  speed := 0#2
  slew := 0#3
  pdur := 0#3
  spud := 0#3
  w1lt := 0#3
  w0rt := 0#3
  load := 0#3
  baud := 0#3
  spu := false

/-- 43_frame_mode R197, 30_encoding R82: a CONFIGURE whose eight fields are all legal stores the position of each value in
its table (SPU_FOREVER_CODE for the strong pull-up's FOREVER), the flag, and CFG_VALID = 1, and changes nothing else. The first
value of every table gives code 0 everywhere, and enables the bytes 0x11, 0x41 and 0x51 (R198). -/
def Obligations.ConfigureStoresTheCodes : Prop :=
  (∀ s : State, exec (.configure firstValues) s = .next ((s.setSession zeroCodes).respond (.result .none))) ∧
  (cfgByte 1#3 0#3 = 0x11#8 ∧ cfgByte 4#3 0#3 = 0x41#8 ∧ cfgByte 5#3 0#3 = 0x51#8) ∧
  ∀ (s : State) (p : CfgRecord), (∀ f, cfgGet p f ∈ cfgLegal f) →
    ∃ c : Session, exec (.configure p) s = .next ((s.setSession c).respond (.result .none)) ∧
      (cfgLegal .speed)[c.speed.toNat]? = some p.speed ∧ (cfgLegal .slew)[c.slew.toNat]? = some p.slew ∧
      (cfgLegal .pdur)[c.pdur.toNat]? = some p.pdur ∧
      (p.spud = .token .forever → c.spud = Config.spuForeverCode) ∧
      (p.spud ≠ .token .forever → (cfgLegal .spud)[c.spud.toNat]? = some p.spud) ∧
      (cfgLegal .w1lt)[c.w1lt.toNat]? = some p.w1lt ∧ (cfgLegal .w0rt)[c.w0rt.toNat]? = some p.w0rt ∧
      (cfgLegal .load)[c.load.toNat]? = some p.load ∧ (cfgLegal .baud)[c.baud.toNat]? = some p.baud ∧ c.spu = p.spu

/-- 43_frame_mode R197, 60_exceptions R271: otherwise the first illegal field, in the order speed, slew, pdur, spud, w1lt,
w0rt, load, baud, is reported with its value and legal set, and no register changes. -/
def Obligations.ConfigureReportsTheFirstIllegalField : Prop :=
  ∀ (s : State) (p : CfgRecord) (f : CfgField) (before after : List CfgField),
    [.speed, .slew, .pdur, .spud, .w1lt, .w0rt, .load, .baud] = before ++ f :: after →
    (∀ g ∈ before, cfgGet p g ∈ cfgLegal g) → cfgGet p f ∉ cfgLegal f →
    exec (.configure p) s = .next (s.respond (.error (.configValidation f (cfgGet p f) (cfgLegal f))))

/-- 43_frame_mode R199: while CFG_VALID = 0 every transport operation is refused, and so is every wire row (log entries 4
and 5). -/
def Obligations.UnconfiguredIsRefused : Prop :=
  ∀ (s : State), s.cfgValid = false →
    ∀ i : Instr, i.wellFormed = true →
      i ∈ [.detect, .resetBus, .enumerate, .markData, .markCommand, .searchRom] ∨
        (∃ m tx n, i = .xact m tx n) ∨ (∃ tx n, i = .txrx tx n) ∨ (∃ t last, i = .search t last) ∨
        (∃ sp, i = .owReset sp ∨ i = .srchAccOn sp ∨ i = .srchAccOff sp ∨ i = .bitWrite sp) ∨
        (∃ c, i = .cfgRead c ∨ i = .cfgWriteSlew c ∨ i = .cfgWritePdur c ∨ i = .cfgWriteSpud c ∨
          i = .cfgWriteW1lt c ∨ i = .cfgWriteW0rt c ∨ i = .cfgWriteLoad c ∨ i = .cfgWriteBaud c) ∨
        (∃ y, i = .resetResponse y ∨ i = .searchEcho y ∨ i = .bitWriteEcho y) →
      exec i s = .refused .unconfigured

/-! ### Transactions -/

/-- 43_frame_mode R192, R193, R219; 30_encoding R93: an XACT whose frame is sent and answered returns the bytes read, leaves
MODE at the requested mode, sends the marker only when MODE differed, makes its flush, write and read in that order, and
changes no other register; TXRX is XACT in DATA mode. -/
def Obligations.XactCompletes : Prop :=
  ∀ (s : State) (m : Mode) (tx rx : List Byte) (n : Nat), s.cfgValid = true →
    Sends s 0 (frameFor m tx s).length → Answered s n rx →
    ∃ t, exec (.xact m tx n) s = .next t ∧ (m = .data → exec (.txrx tx n) s = .next t) ∧
      t.response = some (.result (.bytes rx)) ∧ rx.length = n ∧ t.mode = m ∧ t.liveBaud = s.liveBaud ∧
      t.history = s.history ++ exchangeEvents (if s.mode = m then tx else marker m :: tx) n rx ∧ KeepsRegisters s t

/-- 43_frame_mode R192, R193, R213, R216, R217, R219; 60_exceptions R265, R272: a flush or write that fails raises its
TransportError with no recovery, and MODE keeps the requested mode, whichever operation makes it: XACT; TXRX, which is XACT in
DATA mode; RESET_BUS, which ends as the XACT of its command byte, and SEARCH as that RESET_BUS; and SEARCH's own transaction,
after which MODE is DATA. -/
def Obligations.XactSendFailureRaises : Prop :=
  (∀ (s : State) (tx : List Byte) (n : Nat), exec (.txrx tx n) s = exec (.xact .data tx n) s) ∧
  ∀ s : State, s.cfgValid = true →
    -- XACT
    (∀ (m : Mode) (tx : List Byte) (n : Nat),
      (s.flushDraw 0 = false →
        ∃ t, exec (.xact m tx n) s = .next t ∧ t.response = some (.error (.transport .flush)) ∧ t.mode = m ∧
          t.liveBaud = s.liveBaud ∧ t.history = s.history ++ [.flush false] ∧ KeepsRegisters s t) ∧
      ∀ r, s.flushDraw 0 = true → writeOutcome (frameFor m tx s).length (s.writeDraw 0) = r → r ≠ .ok →
        ∃ t p, exec (.xact m tx n) s = .next t ∧ t.response = some (.error (.transport p)) ∧
          (r = .error → p = .write) ∧ (r ≠ .error → p = .shortWrite) ∧ t.mode = m ∧ t.liveBaud = s.liveBaud ∧
          t.history = s.history ++ [.flush true, .write (frameFor m tx s) r] ∧ KeepsRegisters s t) ∧
    -- RESET_BUS, alone and at the start of SEARCH
    (¬Sends s 0 (if s.mode = .command then 1 else 2) →
      exec .resetBus s = exec (.xact .command [0xC1#8 ||| (s.cfg.speed.setWidth 8 <<< 2)] 1) s ∧
      ∀ t last, last ≤ 64 → exec (.search t last) s = exec .resetBus s) ∧
    -- SEARCH's own transaction
    ∀ (y : Byte) (v : ChipVersion) (t : Word) (last : Nat), Sends s 0 (if s.mode = .command then 1 else 2) →
      Delivers s 0 1 [y] → y &&& 0xC0#8 = 0xC0#8 → (y.extractLsb' 2 3).toNat = v.code → last ≤ 64 →
      (s.flushDraw 1 = false →
        ∃ u, exec (.search t last) s = .next u ∧ u.response = some (.error (.transport .flush)) ∧ u.mode = .data ∧
          u.liveBaud = s.liveBaud ∧
          u.history = s.history ++ exchangeEvents (frameFor .command [owResetByte s.cfg.speed] s) 1 [y] ++ [.flush false] ∧
          KeepsRegisters s u) ∧
      ∀ r, s.flushDraw 1 = true → writeOutcome 23 (s.writeDraw 1) = r → r ≠ .ok →
        ∃ u p, exec (.search t last) s = .next u ∧ u.response = some (.error (.transport p)) ∧
          (r = .error → p = .write) ∧ (r ≠ .error → p = .shortWrite) ∧ u.mode = .data ∧ u.liveBaud = s.liveBaud ∧
          u.history = s.history ++ exchangeEvents (frameFor .command [owResetByte s.cfg.speed] s) 1 [y] ++
            [.flush true, .write (marker .data :: searchPayload s.cfg.speed (encodeSearch s.encVariant t last)) r] ∧
          KeepsRegisters s u

/-- 43_frame_mode R192, R193, R213, R216, R217, R219; 60_exceptions R265 to R267, R272: a read that fails inside a transaction
runs DETECT's body once, whatever that gives, and then raises the read's own error; MODE is COMMAND, and LIVE_BAUD is 0 if the
line set succeeded. So it is in XACT; in TXRX, which is XACT in DATA mode; in RESET_BUS, which ends as the XACT of its command
byte, and in SEARCH as in that RESET_BUS; and in SEARCH's own transaction. -/
def Obligations.XactReadFailureResyncs : Prop :=
  (∀ (s : State) (tx : List Byte) (n : Nat), exec (.txrx tx n) s = exec (.xact .data tx n) s) ∧
  ∀ s : State, s.cfgValid = true →
    -- XACT
    (∀ (m : Mode) (tx : List Byte) (n : Nat) (r : ReadResult), Sends s 0 (frameFor m tx s).length → n ≠ 0 →
      readOutcome n [] (s.readDraw 0) = r → r = .short ∨ r = .error → NoHang s 1 →
      ∃ t es, exec (.xact m tx n) s = .next t ∧
        t.response = some (.error (.transport (if r = .short then .shortRead else .read))) ∧ t.mode = .command ∧
        t.liveBaud = liveAfterDetect s ∧
        t.history = s.history ++ [.flush true, .write (frameFor m tx s) .ok, .read n r] ++ es ∧ detectRuns es = 1 ∧
        KeepsRegisters s t) ∧
    (Sends s 0 (if s.mode = .command then 1 else 2) →
      -- RESET_BUS, alone and at the start of SEARCH
      (∀ r, readOutcome 1 [] (s.readDraw 0) = r → r = .short ∨ r = .error →
        exec .resetBus s = exec (.xact .command [0xC1#8 ||| (s.cfg.speed.setWidth 8 <<< 2)] 1) s ∧
        ∀ t last, last ≤ 64 → exec (.search t last) s = exec .resetBus s) ∧
      -- SEARCH's own transaction
      ∀ (y : Byte) (v : ChipVersion) (t : Word) (last : Nat) (r : ReadResult), Delivers s 0 1 [y] →
        y &&& 0xC0#8 = 0xC0#8 → (y.extractLsb' 2 3).toNat = v.code → Sends s 1 23 → last ≤ 64 →
        readOutcome 17 [] (s.readDraw 1) = r → r = .short ∨ r = .error → NoHang s 2 →
        ∃ u es, exec (.search t last) s = .next u ∧
          u.response = some (.error (.transport (if r = .short then .shortRead else .read))) ∧ u.mode = .command ∧
          u.liveBaud = liveAfterDetect s ∧
          u.history = s.history ++ exchangeEvents (frameFor .command [owResetByte s.cfg.speed] s) 1 [y] ++
            [.flush true, .write (marker .data :: searchPayload s.cfg.speed (encodeSearch s.encVariant t last)) .ok,
              .read 17 r] ++ es ∧
          detectRuns es = 1 ∧ KeepsRegisters s u)

/-- 60_exceptions R264: a read that never completes leaves the operation stuck. What the stuck state holds (the registers and
events made up to the hung read, and the hung read itself, recorded last) is the model's reading (DEDUCED, log entry 10).
Whatever the instruction and the draws: one that completes has made no hung read, and one that is stuck has made exactly one,
its last event. Each read of the block hangs so: that of XACT and TXRX, of DETECT, of RESET_BUS (also inside SEARCH and
ENUMERATE), of SEARCH (also as ENUMERATE's first, and in any later turn of its loop), and the recovery's own read after a
failed read, a garbled reset response or a bad echo byte (R265, R266). -/
def Obligations.HungReadIsStuck : Prop :=
  (∀ (i : Instr) (s t : State),
    (exec i s = .next t → WentOn s t) ∧ (exec i s = .fault (.hung t) → StoppedOnHang s t)) ∧
  ∀ s : State, s.cfgValid = true →
    -- XACT and TXRX, and the recovery after their failed read
    (∀ (m : Mode) (tx : List Byte) (n : Nat), Sends s 0 (frameFor m tx s).length → n ≠ 0 →
      (m = .data → exec (.txrx tx n) s = exec (.xact m tx n) s) ∧
      (s.readDraw 0 = .hang →
        StuckAt s m s.liveBaud [.flush true, .write (frameFor m tx s) .ok] n (exec (.xact m tx n) s)) ∧
      ∀ r, readOutcome n [] (s.readDraw 0) = r → r = .short ∨ r = .error → ReachesRead s 1 1 → s.readDraw 1 = .hang →
        StuckAt s .command (.code 0#2) ([.flush true, .write (frameFor m tx s) .ok, .read n r] ++ detectEvents s.cfg) 5
          (exec (.xact m tx n) s)) ∧
    -- DETECT, and the recovery after a response byte looked at alone
    (ReachesRead s 0 0 → s.readDraw 0 = .hang →
      StuckAt s .command (.code 0#2) (detectEvents s.cfg) 5 (exec .detect s) ∧
      (∀ y : Byte, ¬(y &&& 0xC0#8 = 0xC0#8 ∧ ((y.extractLsb' 2 3).toNat = 2 ∨ (y.extractLsb' 2 3).toNat = 3)) →
        StuckAt s .command (.code 0#2) (detectEvents s.cfg) 5 (exec (.resetResponse y) s)) ∧
      ∀ y : Byte, y &&& 0xF0#8 ≠ 0xF0#8 →
        StuckAt s .command (.code 0#2) (detectEvents s.cfg) 5 (exec (.searchEcho y) s)) ∧
    (Sends s 0 (if s.mode = .command then 1 else 2) →
      -- RESET_BUS, alone and at the start of SEARCH and ENUMERATE
      (s.readDraw 0 = .hang →
        StuckAt s .command s.liveBaud [.flush true, .write (frameFor .command [owResetByte s.cfg.speed] s) .ok] 1
          (exec .resetBus s) ∧
        (∀ t last, last ≤ 64 → exec (.search t last) s = exec .resetBus s) ∧
        StuckAt (s.setEnum { tree := 0#64, pos := 0#7, iter := 0#7, list := [] }) .command s.liveBaud
          [.flush true, .write (frameFor .command [owResetByte s.cfg.speed] s) .ok] 1 (exec .enumerate s)) ∧
      -- the recovery after a garbled reset response
      (∀ y : Byte, Delivers s 0 1 [y] →
        ¬(y &&& 0xC0#8 = 0xC0#8 ∧ ((y.extractLsb' 2 3).toNat = 2 ∨ (y.extractLsb' 2 3).toNat = 3)) →
        ReachesRead s 1 1 → s.readDraw 1 = .hang →
        StuckAt s .command (.code 0#2)
          (exchangeEvents (frameFor .command [owResetByte s.cfg.speed] s) 1 [y] ++ detectEvents s.cfg) 5
          (exec .resetBus s)) ∧
      ∀ (y : Byte) (v : ChipVersion), Delivers s 0 1 [y] → y &&& 0xC0#8 = 0xC0#8 → (y.extractLsb' 2 3).toNat = v.code →
        Sends s 1 23 →
        -- SEARCH, alone and as the first of ENUMERATE
        (s.readDraw 1 = .hang →
          (∀ t last, last ≤ 64 →
            StuckAt s .data s.liveBaud
              (exchangeEvents (frameFor .command [owResetByte s.cfg.speed] s) 1 [y] ++
                [.flush true, .write (marker .data :: searchPayload s.cfg.speed (encodeSearch s.encVariant t last)) .ok]) 17
              (exec (.search t last) s)) ∧
          StuckAt (s.setEnum { tree := 0#64, pos := 0#7, iter := 0#7, list := [] }) .data s.liveBaud
            (exchangeEvents (frameFor .command [owResetByte s.cfg.speed] s) 1 [y] ++
              [.flush true, .write (marker .data :: searchPayload s.cfg.speed (encodeSearch s.encVariant 0#64 0)) .ok]) 17
            (exec .enumerate s)) ∧
        -- the recovery after a bad echo byte
        ∀ (t : Word) (last : Nat) (e : Byte) (rs : List Byte), last ≤ 64 → Delivers s 1 17 (e :: rs) →
          e &&& 0xF0#8 ≠ 0xF0#8 → ReachesRead s 2 2 → s.readDraw 2 = .hang →
          StuckAt s .command (.code 0#2)
            (exchangeEvents (frameFor .command [owResetByte s.cfg.speed] s) 1 [y] ++
              exchangeEvents (marker .data :: searchPayload s.cfg.speed (encodeSearch s.encVariant t last)) 17 (e :: rs) ++
              detectEvents s.cfg) 5
            (exec (.search t last) s)) ∧
    -- any turn of ENUMERATE's loop
    ∀ (fuel : Nat) (u : State), searchBody s.enum.tree s.enum.pos.toNat s = .hung u → enumLoop (fuel + 1) s = .hung u

/-! ### Detect -/

/-- 43_frame_mode R210, 30_encoding R92: a DETECT whose primitives succeed makes its nine events in order, with the timing
byte and the probe of the session, sets MODE to COMMAND and LIVE_BAUD to 0, and returns presence exactly when bits 3-1 of
y[3] are CFG_BAUD and bits 7-2 of y[4] are those of the BIT_WRITE byte sent. -/
def Obligations.DetectCompletes : Prop :=
  ∀ (s : State) (y : List Byte), s.cfgValid = true →
    s.lineDraw 0 = true → s.lineDraw 1 = true → s.lineDraw 2 = true → s.flushDraw 0 = true →
    writeOutcome 1 (s.writeDraw 0) = .ok → writeOutcome 5 (s.writeDraw 1) = .ok → Delivers s 0 5 y →
    ∃ t, exec .detect s = .next t ∧
      t.response = some (.result (.present (decide ((y.getD 3 0#8).extractLsb' 1 3 = s.cfg.baud) &&
        decide (y.getD 4 0#8 &&& 0xFC#8 = (0x81#8 ||| (s.cfg.speed.setWidth 8 <<< 2)) &&& 0xFC#8)))) ∧
      y.length = 5 ∧ t.mode = .command ∧ t.liveBaud = .code 0#2 ∧
      t.history = s.history ++ [.setLine 9600 Config.detectFraming true, .updateConfig true, .lineBreak true,
        .delay Config.tBreakSettle, .flush true, .write [0xC1#8 ||| (s.cfg.speed.setWidth 8 <<< 2)] .ok,
        .delay Config.tResetSettle,
        .write [0x10#8 ||| (s.cfg.slew.setWidth 8 <<< 1) ||| 1#8, 0x40#8 ||| (s.cfg.w1lt.setWidth 8 <<< 1) ||| 1#8,
          0x50#8 ||| (s.cfg.w0rt.setWidth 8 <<< 1) ||| 1#8, 0x0F#8, 0x81#8 ||| (s.cfg.speed.setWidth 8 <<< 2)] .ok,
        .read 5 (.bytes y)] ∧
      KeepsRegisters s t

/-- 43_frame_mode R210, R211; 60_exceptions R262, R264, R265, R268, R272: DETECT answers by the first of its primitives that
fails: LINE for SetLine, UpdateConfig and TxBreak, FLUSH for the flush, WRITE or SHORT_WRITE for either write, READ or
SHORT_READ for the read, and a presence bit when none does (`detectAnswer`). It hangs exactly when all before its read succeed
and the read hangs. However it ends, MODE is COMMAND, LIVE_BAUD is 0 if the line set succeeded and unchanged otherwise, its body
ran exactly once, so that it ran no recovery, and no other register changes. What the stuck state holds is the model's reading
(DEDUCED, log entry 10). -/
def Obligations.DetectNeverRecovers : Prop :=
  ∀ s : State, s.cfgValid = true →
    ∃ t es, t.mode = .command ∧ t.liveBaud = liveAfterDetect s ∧ t.history = s.history ++ es ∧ detectRuns es = 1 ∧
      KeepsRegisters s t ∧
      (∀ r, detectAnswer s = some r → exec .detect s = .next (t.respond r)) ∧
      (detectAnswer s = none → exec .detect s = .fault (.hung t))

/-! ### Reset -/

/-- 43_frame_mode R213, R214; 30_encoding R85, R86, R91: a RESET_BUS whose transaction is answered with a byte that has bits
7 and 6 set and version code 2 or 3 returns that version and bits 1-0; MODE is COMMAND; the frame is the reset command byte,
after the marker 0xE3 when MODE was DATA. -/
def Obligations.ResetBusCompletes : Prop :=
  ∀ (s : State) (y : Byte) (v : ChipVersion), s.cfgValid = true →
    Sends s 0 (if s.mode = .command then 1 else 2) → Delivers s 0 1 [y] →
    y &&& 0xC0#8 = 0xC0#8 → (y.extractLsb' 2 3).toNat = v.code →
    ∃ t, exec .resetBus s = .next t ∧ t.response = some (.result (.reset v (y.extractLsb' 0 2))) ∧ t.mode = .command ∧
      t.liveBaud = s.liveBaud ∧
      t.history = s.history ++ [.flush true,
        .write (if s.mode = .command then [0xC1#8 ||| (s.cfg.speed.setWidth 8 <<< 2)]
          else [0xE3#8, 0xC1#8 ||| (s.cfg.speed.setWidth 8 <<< 2)]) .ok, .read 1 (.bytes [y])] ∧
      KeepsRegisters s t ∧ (v.code = 2 → v.text = "ds2480") ∧ (v.code = 3 → v.text = "ds2480b")

/-- 43_frame_mode R213; 60_exceptions R261, R265, R266, R272: any other byte, failing the mask or the version test, gives
InvalidResponse with that byte after one recovery; MODE is COMMAND, and LIVE_BAUD is 0 if the recovery's line set succeeded. -/
def Obligations.ResetBusRejectsGarbledResponses : Prop :=
  ∀ (s : State) (y : Byte), s.cfgValid = true →
    Sends s 0 (if s.mode = .command then 1 else 2) → Delivers s 0 1 [y] → NoHang s 1 →
    ¬(y &&& 0xC0#8 = 0xC0#8 ∧ ((y.extractLsb' 2 3).toNat = 2 ∨ (y.extractLsb' 2 3).toNat = 3)) →
    ∃ t es, exec .resetBus s = .next t ∧ t.response = some (.error (.invalidResponse .reset y)) ∧ t.mode = .command ∧
      t.liveBaud = liveAfterDetect s ∧ t.history = s.history ++ es ∧ detectRuns es = 1 ∧ KeepsRegisters s t

/-! ### Search -/

/-- 43_frame_mode R216, R217; 30_encoding R90: a SEARCH whose reset succeeds and whose 17 response bytes start with a byte
whose high nibble is 0xF returns the decoded response, sends the payload F after the marker 0xE1, and leaves MODE at
DATA; the parser is not touched. -/
def Obligations.SearchCompletes : Prop :=
  ∀ (s : State) (t : Word) (last : Nat) (y e : Byte) (v : ChipVersion) (rs : List Byte), s.cfgValid = true → last ≤ 64 →
    Sends s 0 (if s.mode = .command then 1 else 2) → Sends s 1 23 → Delivers s 0 1 [y] → Delivers s 1 17 (e :: rs) →
    y &&& 0xC0#8 = 0xC0#8 → (y.extractLsb' 2 3).toNat = v.code → e &&& 0xF0#8 = 0xF0#8 →
    ∃ u, exec (.search t last) s = .next u ∧
      u.response = some (.result (.decoded (decodeSearch rs).1 (decodeSearch rs).2)) ∧ u.mode = .data ∧
      u.liveBaud = s.liveBaud ∧
      u.history = s.history ++
        exchangeEvents (if s.mode = .command then [0xC1#8 ||| (s.cfg.speed.setWidth 8 <<< 2)]
          else [0xE3#8, 0xC1#8 ||| (s.cfg.speed.setWidth 8 <<< 2)]) 1 [y] ++
        exchangeEvents ([0xE1#8, 0xF0#8, 0xE3#8, 0xB1#8 ||| (s.cfg.speed.setWidth 8 <<< 2), 0xE1#8] ++
          encodeSearch s.encVariant t last ++ [0xE3#8, 0xA1#8 ||| (s.cfg.speed.setWidth 8 <<< 2)]) 17 (e :: rs) ∧
      KeepsRegisters s u

/-- 43_frame_mode R216, R217; 60_exceptions R265, R272: an echo byte whose high nibble is not 0xF gives
InvalidResponse(SEARCH) with that byte after one recovery; MODE is COMMAND, and LIVE_BAUD is 0 if the recovery's line set
succeeded. -/
def Obligations.SearchRejectsABadEcho : Prop :=
  ∀ (s : State) (t : Word) (last : Nat) (y e : Byte) (v : ChipVersion) (rs : List Byte), s.cfgValid = true → last ≤ 64 →
    Sends s 0 (if s.mode = .command then 1 else 2) → Sends s 1 23 → Delivers s 0 1 [y] → Delivers s 1 17 (e :: rs) →
    y &&& 0xC0#8 = 0xC0#8 → (y.extractLsb' 2 3).toNat = v.code → e &&& 0xF0#8 ≠ 0xF0#8 → NoHang s 2 →
    ∃ u es, exec (.search t last) s = .next u ∧ u.response = some (.error (.invalidResponse .search e)) ∧
      u.mode = .command ∧ u.liveBaud = liveAfterDetect s ∧ u.history = s.history ++ es ∧ detectRuns es = 1 ∧
      KeepsRegisters s u

/-- 43_frame_mode R216 step 1, 60_exceptions R268, R271: when RESET_BUS returns an error, SEARCH ends with that same error
in that same state, and so does ENUMERATE at its first SEARCH (44_enumerate R242), but for its own cursor. -/
def Obligations.ResetErrorEndsTheSearch : Prop :=
  ∀ (s u : State) (e : Err) (t : Word) (last : Nat), exec .resetBus s = .next u → u.response = some (.error e) →
    last ≤ 64 →
    exec (.search t last) s = .next u ∧
      exec .enumerate s = .next (u.setEnum { tree := 0#64, pos := 0#7, iter := 0#7, list := [] })

/-- 70_reset_and_hazards R300, 43_frame_mode R217: after every successful SEARCH, MODE is DATA, while the last marker in the
byte stream the chip sees is COMMAND, whatever prefixes of earlier failed writes the chip may have received besides
(20_memory R53). -/
def Obligations.SearchLeavesTheModeHazard : Prop :=
  ∀ (s u : State) (t : Word) (last : Nat) (r : Result), exec (.search t last) s = .next u →
    u.response = some (.result r) →
    u.mode = .data ∧ lastMarker (outStream u.history) = some .command ∧
      ∀ bs, MayHaveReceived u.history bs → lastMarker bs = some .command

/-! ### Enumeration -/

/-- 44_enumerate R240, R241, R243, R244: when every SEARCH ENUMERATE may make would be answered (good reset bytes, good
echoes, whatever response frames), it completes with a list of valid addresses; it makes between 1 and 64 SEARCH operations,
at least as many as the addresses it lists, stops only at position 64 or at the 64th, and leaves MODE at DATA. -/
def Obligations.EnumerateCompletes : Prop :=
  ∀ s : State, s.cfgValid = true → (∀ k < 128, s.flushDraw k = true) → (∀ k < 128, s.writeDraw k = .full) →
    (∀ k < 64, ∃ y v, Delivers s (2 * k) 1 [y] ∧ y &&& 0xC0#8 = 0xC0#8 ∧
      (y.extractLsb' 2 3).toNat = ChipVersion.code v) →
    (∀ k < 64, ∃ e rs, Delivers s (2 * k + 1) 17 (e :: rs) ∧ e &&& 0xF0#8 = 0xF0#8) →
    ∃ t vs, exec .enumerate s = .next t ∧ t.response = some (.result (.addrs vs)) ∧ t.enum.list = vs ∧
      (∀ v ∈ vs, AddrValid v) ∧ 1 ≤ t.enum.iter.toNat ∧ t.enum.iter.toNat ≤ 64 ∧ vs.length ≤ t.enum.iter.toNat ∧
      (t.enum.pos = 64#7 ∨ t.enum.iter = 64#7) ∧ t.mode = .data ∧ t.liveBaud = s.liveBaud ∧
      KeepsRegisters (s.setEnum t.enum) t

/-- 44_enumerate R240 to R244, 43_frame_mode R216, 60_exceptions R272: one turn of the loop, at any cursor. After a SEARCH that
returns (t', p') the cursor is (t', p'), the count is one more, and t' is appended exactly when it is a valid address; the loop
ends at position 64 or count 64, and otherwise goes on. A SEARCH that ends in an error ends the loop with that same error in that
same state, and ENUM_* keep the values they had when it failed. ENUMERATE is the loop from the start values of its cursor, with 64
turns to make, and SEARCH is one such search. -/
def Obligations.EnumerateTurn : Prop :=
  (∀ (s u : State) (t : Word) (p fuel : Nat),
    searchBody s.enum.tree s.enum.pos.toNat s = .ok (t, p) u →
    ∃ c : Cursor, c.tree = t ∧ c.pos.toNat = p ∧ c.iter = s.enum.iter + 1#7 ∧
      (AddrValid t → c.list = s.enum.list ++ [t]) ∧ (¬AddrValid t → c.list = s.enum.list) ∧
      enumLoop (fuel + 1) s =
        if p = 64 ∨ s.enum.iter + 1#7 = 64#7 then .ok (.addrs c.list) (u.setEnum c) else enumLoop fuel (u.setEnum c)) ∧
  (∀ (s u : State) (e : Err) (fuel : Nat), searchBody s.enum.tree s.enum.pos.toNat s = .err e u →
    enumLoop (fuel + 1) s = .err e u ∧ u.enum = s.enum) ∧
  ∀ s : State, s.cfgValid = true →
    exec .enumerate s = finish (enumLoop 64 (s.setEnum { tree := 0#64, pos := 0#7, iter := 0#7, list := [] })) ∧
    ∀ t last, last ≤ 64 →
      exec (.search t last) s = finish ((searchBody t last s).bind fun r u => .ok (.decoded r.1 r.2) u)

/-- 44_enumerate R242, 60_exceptions R261, R268: an ENUMERATE that ends in an error ends in a TransportError or an
InvalidResponse, never in CrcMismatch, and made at most one recovery. -/
def Obligations.EnumerateErrorsAreSearchErrors : Prop :=
  ∀ (s u : State) (e : Err), exec .enumerate s = .next u → u.response = some (.error e) →
    ((∃ p, e = .transport p) ∨ ∃ op y, e = .invalidResponse op y) ∧
      ∃ es, u.history = s.history ++ es ∧ detectRuns es ≤ 1

/-! ### The wire rows -/

/-- The payload of each outgoing row, in which mode it goes, and how many response bytes it expects (30_encoding R70 to R92).
The payload of a command or data row is its byte. That of the two markers is empty: the marker is the one the transaction puts
in front when MODE differs (43_frame_mode R193; log entry 23). -/
def wirePayload : Instr → Option (Mode × List Byte × Nat)
  | .markData => some (.data, [], 0)
  | .markCommand => some (.command, [], 0)
  | .owReset sp => some (.command, [0xC1#8 ||| (sp.setWidth 8 <<< 2)], 1)
  | .srchAccOn sp => some (.command, [0xB1#8 ||| (sp.setWidth 8 <<< 2)], 0)
  | .srchAccOff sp => some (.command, [0xA1#8 ||| (sp.setWidth 8 <<< 2)], 0)
  | .bitWrite sp => some (.command, [0x81#8 ||| (sp.setWidth 8 <<< 2)], 1)
  | .searchRom => some (.data, [0xF0#8], 1)
  | .cfgRead p => some (.command, [0x01#8 ||| (p.setWidth 8 <<< 1)], 1)
  | .cfgWriteSlew c => some (.command, [0x11#8 ||| (c.setWidth 8 <<< 1)], 1)
  | .cfgWritePdur c => some (.command, [0x21#8 ||| (c.setWidth 8 <<< 1)], 1)
  | .cfgWriteSpud c => some (.command, [0x31#8 ||| (c.setWidth 8 <<< 1)], 1)
  | .cfgWriteW1lt c => some (.command, [0x41#8 ||| (c.setWidth 8 <<< 1)], 1)
  | .cfgWriteW0rt c => some (.command, [0x51#8 ||| (c.setWidth 8 <<< 1)], 1)
  | .cfgWriteLoad c => some (.command, [0x61#8 ||| (c.setWidth 8 <<< 1)], 1)
  | .cfgWriteBaud c => some (.command, [0x71#8 ||| (c.setWidth 8 <<< 1)], 1)
  | _ => none

/-- 30_encoding R70 to R83, R92, 43_frame_mode R192, R193: an outgoing wire row, asked for alone, completes as one transaction
in the mode of its class. The frame of a command or data row is its byte, after a marker when MODE differed. The frame of
MARK_DATA and MARK_COMMAND is the marker alone when MODE differed, and empty when MODE agrees: then no byte is sent. That a row
is such a transaction is the model's reading (DEDUCED, log entry 4), and so is the empty payload of the two marker rows
(DEDUCED, log entry 23) and that CFG_READ is legal with parameter 0 (DESIGN CHOICE, log entry 25). -/
def Obligations.WireRowsCompleteAsTransactions : Prop :=
  ∀ (i : Instr) (s : State) (m : Mode) (tx rx : List Byte) (n : Nat), wirePayload i = some (m, tx, n) →
    i.wellFormed = true → s.cfgValid = true → Sends s 0 (frameFor m tx s).length → Answered s n rx →
    ∃ t, exec i s = .next t ∧ t.response = some (.result (.bytes rx)) ∧ t.mode = m ∧ t.liveBaud = s.liveBaud ∧
      t.history = s.history ++ exchangeEvents (if s.mode = m then tx else marker m :: tx) n rx ∧ KeepsRegisters s t

/-- 30_encoding R85, R86, R87, 43_frame_mode R213, R216, 60_exceptions R265: the response rows make the block's checks.
RESET_RESPONSE returns the version and status of a good byte; one that fails the mask or the version test gives
InvalidResponse(RESET) with the byte. SEARCH_ECHO accepts a byte with high nibble 0xF; any other gives InvalidResponse(SEARCH)
with the byte. Both errors come after one recovery, when its read does not hang: MODE is COMMAND and LIVE_BAUD is 0 if the line
set succeeded. BIT_WRITE_ECHO compares bits 7-2 with the byte sent. No other register changes. That a row is such a check is the
model's reading (DEDUCED, log entry 5). -/
def Obligations.ResponseRowsCheckTheByte : Prop :=
  ∀ (s : State) (y : Byte), s.cfgValid = true →
    (∀ v : ChipVersion, y &&& 0xC0#8 = 0xC0#8 → (y.extractLsb' 2 3).toNat = v.code →
      exec (.resetResponse y) s = .next (s.respond (.result (.reset v (y.extractLsb' 0 2))))) ∧
    (y &&& 0xF0#8 = 0xF0#8 → exec (.searchEcho y) s = .next (s.respond (.result .none))) ∧
    exec (.bitWriteEcho y) s = .next (s.respond (.result (.echo (decide
      (y &&& 0xFC#8 = (0x81#8 ||| (s.cfg.speed.setWidth 8 <<< 2)) &&& 0xFC#8))))) ∧
    (NoHang s 0 →
      ¬(y &&& 0xC0#8 = 0xC0#8 ∧ ((y.extractLsb' 2 3).toNat = 2 ∨ (y.extractLsb' 2 3).toNat = 3)) →
      ∃ t es, exec (.resetResponse y) s = .next t ∧ t.response = some (.error (.invalidResponse .reset y)) ∧
        t.mode = .command ∧
        t.liveBaud = liveAfterDetect s ∧ t.history = s.history ++ es ∧ detectRuns es = 1 ∧ KeepsRegisters s t) ∧
    (NoHang s 0 → y &&& 0xF0#8 ≠ 0xF0#8 →
      ∃ t es, exec (.searchEcho y) s = .next t ∧ t.response = some (.error (.invalidResponse .search y)) ∧
        t.mode = .command ∧
        t.liveBaud = liveAfterDetect s ∧ t.history = s.history ++ es ∧ detectRuns es = 1 ∧ KeepsRegisters s t)

/-- 60_exceptions R261, R262: the error codes and the phase codes. -/
def Obligations.ErrorNumbers : Prop :=
  (∀ f v l, (Err.configValidation f v l).code = 1) ∧ (∀ p, (Err.transport p).code = 2) ∧
  (∀ op y, (Err.invalidResponse op y).code = 3) ∧ (∀ a b, (Err.crcMismatch a b).code = 4) ∧
  (∀ n, (Err.invalidFormat n).code = 5) ∧ (∀ n, (Err.invalidLength n).code = 6) ∧
  Err.invalidFamily.code = 7 ∧ Err.invalidSerial.code = 8 ∧ Err.invalidCrc.code = 9 ∧
  Phase.flush.code = 0 ∧ Phase.write.code = 1 ∧ Phase.shortWrite.code = 2 ∧ Phase.read.code = 3 ∧
  Phase.shortRead.code = 4 ∧ Phase.line.code = 5

/-! ### Rules about every instruction -/

/-- The operations that use no transport: the CRC unit, the address validator, the codec, the parser, CONFIGURE and the
pseudo-operations. -/
def usesNoTransport : Instr → Bool
  | .crcClr | .crcBit _ | .crcByte _ | .crcRead | .crcSeq _ | .crcSeqr _ | .crcStream _ => true
  | .addrMake _ _ | .addrFromBytes _ | .addrFromSearch _ | .addrToBytes _ | .addrFields _ | .addrParse _
  | .addrRender _ => true
  | .encSearch _ _ | .decSearch _ | .prsClr | .prsBit _ | .prsByte _ | .prsRead | .prsStream _ => true
  | .configure _ => true
  | _ => false

/-- The instructions that write CRC_ACC (10_state R23; 40_crc R129). -/
def writesCrc : Instr → Bool
  | .crcClr | .crcBit _ | .crcByte _ | .crcStream _ => true
  | _ => false

/-- The instructions that write the parser registers (10_state R25; 42_search_codec R173). -/
def writesParser : Instr → Bool
  | .prsClr | .prsBit _ | .prsByte _ | .prsStream _ => true
  | _ => false

/-- 10_state R22 to R32, R40 to R43; 20_memory R54, R55: what each instruction leaves alone. CRC_ACC, the parser, the
session, and the sequencer are written only by the instructions the spec names; CONFIGURE and the units before the frame unit
touch neither MODE, LIVE_BAUD nor the transport; nothing writes the queue or the build parameter. -/
def Obligations.EveryInstructionHasItsFrame : Prop :=
  ∀ (i : Instr) (s t : State), exec i s = .next t →
    (writesCrc i = false → t.crcAcc = s.crcAcc) ∧ (writesParser i = false → t.prs = s.prs) ∧
    ((∀ p, i ≠ .configure p) → t.cfgValid = s.cfgValid ∧ t.cfg = s.cfg) ∧
    (i ≠ .enumerate → t.enum = s.enum) ∧
    (usesNoTransport i = true → t.mode = s.mode ∧ t.liveBaud = s.liveBaud ∧ SameTransport s t) ∧
    t.encVariant = s.encVariant ∧ t.queue = s.queue


/-- 20_memory R55, 60_exceptions R260, R268: the event history is only ever added to, and one operation runs DETECT's body
at most once, as its recovery or as DETECT itself. -/
def Obligations.AtMostOneRecovery : Prop :=
  ∀ (i : Instr) (s t : State), exec i s = .next t ∨ exec i s = .fault (.hung t) →
    ∃ es, t.history = s.history ++ es ∧ detectRuns es ≤ 1

/-- An outcome with its state, next or stuck, seen through `f`. -/
def seenThrough (f : State → State) : Host.Outcome State Fault Refusal → Host.Outcome State Fault Refusal
  | .next t => .next (f t)
  | .fault (.hung t) => .fault (.hung (f t))
  | .refused r => .refused r

/-- A state whose session registers are hidden while they hold no value (10_state R28). -/
def hideSession (s : State) : State := if s.cfgValid then s else { s with cfg := State.reset.cfg }

/-- 10_state R28 to R31, 70_reset_and_hazards R290: no operation reads a session register before a successful CONFIGURE: what
the model holds in them at reset (log entry 2) cannot be learned. -/
def Obligations.UnconfiguredSessionIsUnobservable : Prop :=
  ∀ (i : Instr) (s : State) (c d : Session), s.cfgValid = false →
    seenThrough hideSession (exec i { s with cfg := c }) = seenThrough hideSession (exec i { s with cfg := d })

/-- 10_state R45, 70_reset_and_hazards R303: no operation's outcome depends on the input that was pending before it: not its
response, not its registers, not its events. -/
def Obligations.StaleInputIsNeverRead : Prop :=
  ∀ (i : Instr) (s : State) (xs ys : List Byte),
    seenThrough (fun t => t.setPending []) (exec i (s.setPending xs)) =
      seenThrough (fun t => t.setPending []) (exec i (s.setPending ys))
end

