-- ==== Sys2Proof/Laws/Bits.lean ====
section
/-! SUPPORT. The byte and bit conversions (00_scope R10, 20_memory R56, R57): each bit of what they give, and that they undo
one another. -/

namespace Sys2Proof.Machine

theorem bitsNat_lt (f : Nat → Bool) (n : Nat) : bitsNat f n < 2 ^ n := by
  induction n with
  | zero => simp [bitsNat]
  | succ n ih => simp only [bitsNat, Nat.pow_succ]; split <;> omega

theorem testBit_bitsNat (f : Nat → Bool) (n k : Nat) : (bitsNat f n).testBit k = (decide (k < n) && f k) := by
  induction n with
  | zero => simp [bitsNat]
  | succ n ih =>
    have hlt := bitsNat_lt f n
    by_cases hf : f n
    · rw [show bitsNat f (n + 1) = 2 ^ n + bitsNat f n by simp [bitsNat, hf, Nat.add_comm]]
      rcases Nat.lt_trichotomy k n with h | rfl | h
      · rw [Nat.testBit_two_pow_add_gt h, ih]
        simp [h, Nat.lt_succ_of_lt h]
      · rw [Nat.testBit_two_pow_add_eq, Nat.testBit_lt_two_pow hlt]
        simp [hf]
      · rw [Nat.testBit_lt_two_pow]
        · simp; intro; omega
        · calc 2 ^ n + bitsNat f n < 2 ^ (n + 1) := by rw [Nat.pow_succ]; omega
            _ ≤ 2 ^ k := Nat.pow_le_pow_right (by omega) h
    · rw [show bitsNat f (n + 1) = bitsNat f n by simp [bitsNat, hf], ih]
      by_cases hk : k = n
      · subst hk; simp [hf]
      · have : (k < n + 1) ↔ k < n := by omega
        simp [this]

/-- Bit `k` of a value given by its bits. -/
@[simp] theorem getLsbD_ofBits (w : Nat) (f : Nat → Bool) (k : Nat) :
    (ofBits w f).getLsbD k = (decide (k < w) && f k) := by
  rw [ofBits, BitVec.getLsbD_ofNat, testBit_bitsNat]
  by_cases h : k < w <;> simp [h]

@[simp] theorem length_leBytes {w : Nat} (n : Nat) (v : BitVec w) : (leBytes n v).length = n := by
  simp [leBytes]

@[simp] theorem length_le8 (v : Word) : (le8 v).length = 8 := length_leBytes 8 v

@[simp] theorem length_le16 (q : BitVec 128) : (le16 q).length = 16 := length_leBytes 16 q

/-- Byte `k` of the bytes of `v`. -/
theorem getElem?_leBytes {w : Nat} (n : Nat) (v : BitVec w) (k : Nat) :
    (leBytes n v)[k]? = if k < n then some (v.extractLsb' (8 * k) 8) else none := by
  simp only [leBytes, List.getElem?_map]
  split
  · rename_i h; simp [List.getElem?_range h]
  · rename_i h; simp [h]

theorem leNat_lt (xs : List Byte) : leNat xs < 256 ^ xs.length := by
  induction xs with
  | nil => simp [leNat]
  | cons x xs ih =>
    have hx := x.isLt
    simp only [leNat, List.foldr_cons, List.length_cons, Nat.pow_succ] at ih ⊢
    omega

theorem leNat_cons (x : Byte) (xs : List Byte) : leNat (x :: xs) = x.toNat + 256 * leNat xs := rfl

/-- Bit `k` of the number is bit `k mod 8` of byte `k div 8`. -/
theorem testBit_leNat (xs : List Byte) (k : Nat) :
    (leNat xs).testBit k = (xs.getD (k / 8) 0#8).getLsbD (k % 8) := by
  induction xs generalizing k with
  | nil => simp [leNat]
  | cons x xs ih =>
    rw [leNat_cons, Nat.add_comm, show (256 : Nat) = 2 ^ 8 from rfl, Nat.testBit_two_pow_mul_add _ x.isLt]
    by_cases h : k < 8
    · have h0 : k / 8 = 0 := Nat.div_eq_of_lt h
      simp [h, h0, Nat.mod_eq_of_lt h, BitVec.getLsbD]
    · have h1 : k / 8 = (k - 8) / 8 + 1 := by omega
      have h2 : k % 8 = (k - 8) % 8 := by omega
      simp [h, ih, h1, ← h2]

theorem getLsbD_fromLE (xs : List Byte) (k : Nat) (hk : k < 64) :
    (fromLE xs).getLsbD k = (xs.getD (k / 8) 0#8).getLsbD (k % 8) := by
  rw [fromLE, BitVec.getLsbD_ofNat, testBit_leNat, decide_eq_true hk, Bool.true_and]

theorem getLsbD_fromLE16 (xs : List Byte) (k : Nat) (hk : k < 128) :
    (fromLE16 xs).getLsbD k = (xs.getD (k / 8) 0#8).getLsbD (k % 8) := by
  rw [fromLE16, BitVec.getLsbD_ofNat, testBit_leNat, decide_eq_true hk, Bool.true_and]

theorem getD_leBytes {w : Nat} (n : Nat) (v : BitVec w) (k : Nat) (hk : k < n) :
    (leBytes n v).getD k 0#8 = v.extractLsb' (8 * k) 8 := by
  rw [List.getD_eq_getElem?_getD, getElem?_leBytes, if_pos hk]; rfl

/-- `fromLE` undoes `LE8`. -/
@[simp] theorem fromLE_le8 (v : Word) : fromLE (le8 v) = v := by
  apply BitVec.eq_of_getLsbD_eq
  intro k hk
  rw [getLsbD_fromLE _ _ hk, le8, getD_leBytes _ _ _ (by omega), BitVec.getLsbD_extractLsb']
  have : k % 8 < 8 := Nat.mod_lt _ (by omega)
  simp [this, Nat.div_add_mod]

/-- `fromLE16` undoes `LE16`. -/
@[simp] theorem fromLE16_le16 (q : BitVec 128) : fromLE16 (le16 q) = q := by
  apply BitVec.eq_of_getLsbD_eq
  intro k hk
  rw [getLsbD_fromLE16 _ _ hk, le16, getD_leBytes _ _ _ (by omega), BitVec.getLsbD_extractLsb']
  have : k % 8 < 8 := Nat.mod_lt _ (by omega)
  simp [this, Nat.div_add_mod]

/-- `LE8` undoes `fromLE` on eight bytes. -/
theorem le8_fromLE (xs : List Byte) (h : xs.length = 8) : le8 (fromLE xs) = xs := by
  apply List.ext_getElem?
  intro k
  rw [le8, getElem?_leBytes]
  by_cases hk : k < 8
  · rw [if_pos hk, List.getElem?_eq_getElem (by omega)]
    congr 1
    apply BitVec.eq_of_getLsbD_eq
    intro j hj
    have e1 : (8 * k + j) / 8 = k := by omega
    have e2 : (8 * k + j) % 8 = j := by omega
    rw [BitVec.getLsbD_extractLsb', getLsbD_fromLE _ _ (by omega), e1, e2, List.getD_eq_getElem?_getD,
      List.getElem?_eq_getElem (by omega)]
    simp [hj]
  · rw [if_neg hk, List.getElem?_eq_none (by omega)]

end Sys2Proof.Machine
end

