-- ==== Sys2Proof/Laws/State.lean ====
section
/-! SUPPORT. One lemma for each field of the state under each update, and for each draw under each update. -/

namespace Sys2Proof.Machine

@[simp] theorem State.setCrc_crcAcc (s : State) (c : Byte) : (s.setCrc c).crcAcc = c := rfl
@[simp] theorem State.setCrc_prs (s : State) (c : Byte) : (s.setCrc c).prs = s.prs := rfl
@[simp] theorem State.setCrc_mode (s : State) (c : Byte) : (s.setCrc c).mode = s.mode := rfl
@[simp] theorem State.setCrc_cfgValid (s : State) (c : Byte) : (s.setCrc c).cfgValid = s.cfgValid := rfl
@[simp] theorem State.setCrc_cfg (s : State) (c : Byte) : (s.setCrc c).cfg = s.cfg := rfl
@[simp] theorem State.setCrc_liveBaud (s : State) (c : Byte) : (s.setCrc c).liveBaud = s.liveBaud := rfl
@[simp] theorem State.setCrc_enum (s : State) (c : Byte) : (s.setCrc c).enum = s.enum := rfl
@[simp] theorem State.setCrc_history (s : State) (c : Byte) : (s.setCrc c).history = s.history := rfl
@[simp] theorem State.setCrc_pending (s : State) (c : Byte) : (s.setCrc c).pending = s.pending := rfl
@[simp] theorem State.setCrc_env (s : State) (c : Byte) : (s.setCrc c).env = s.env := rfl
@[simp] theorem State.setCrc_encVariant (s : State) (c : Byte) : (s.setCrc c).encVariant = s.encVariant := rfl
@[simp] theorem State.setCrc_queue (s : State) (c : Byte) : (s.setCrc c).queue = s.queue := rfl
@[simp] theorem State.setCrc_response (s : State) (c : Byte) : (s.setCrc c).response = s.response := rfl

@[simp] theorem State.setPrs_crcAcc (s : State) (p : Parser) : (s.setPrs p).crcAcc = s.crcAcc := rfl
@[simp] theorem State.setPrs_prs (s : State) (p : Parser) : (s.setPrs p).prs = p := rfl
@[simp] theorem State.setPrs_mode (s : State) (p : Parser) : (s.setPrs p).mode = s.mode := rfl
@[simp] theorem State.setPrs_cfgValid (s : State) (p : Parser) : (s.setPrs p).cfgValid = s.cfgValid := rfl
@[simp] theorem State.setPrs_cfg (s : State) (p : Parser) : (s.setPrs p).cfg = s.cfg := rfl
@[simp] theorem State.setPrs_liveBaud (s : State) (p : Parser) : (s.setPrs p).liveBaud = s.liveBaud := rfl
@[simp] theorem State.setPrs_enum (s : State) (p : Parser) : (s.setPrs p).enum = s.enum := rfl
@[simp] theorem State.setPrs_history (s : State) (p : Parser) : (s.setPrs p).history = s.history := rfl
@[simp] theorem State.setPrs_pending (s : State) (p : Parser) : (s.setPrs p).pending = s.pending := rfl
@[simp] theorem State.setPrs_env (s : State) (p : Parser) : (s.setPrs p).env = s.env := rfl
@[simp] theorem State.setPrs_encVariant (s : State) (p : Parser) : (s.setPrs p).encVariant = s.encVariant := rfl
@[simp] theorem State.setPrs_queue (s : State) (p : Parser) : (s.setPrs p).queue = s.queue := rfl
@[simp] theorem State.setPrs_response (s : State) (p : Parser) : (s.setPrs p).response = s.response := rfl

@[simp] theorem State.setMode_crcAcc (s : State) (m : Mode) : (s.setMode m).crcAcc = s.crcAcc := rfl
@[simp] theorem State.setMode_prs (s : State) (m : Mode) : (s.setMode m).prs = s.prs := rfl
@[simp] theorem State.setMode_mode (s : State) (m : Mode) : (s.setMode m).mode = m := rfl
@[simp] theorem State.setMode_cfgValid (s : State) (m : Mode) : (s.setMode m).cfgValid = s.cfgValid := rfl
@[simp] theorem State.setMode_cfg (s : State) (m : Mode) : (s.setMode m).cfg = s.cfg := rfl
@[simp] theorem State.setMode_liveBaud (s : State) (m : Mode) : (s.setMode m).liveBaud = s.liveBaud := rfl
@[simp] theorem State.setMode_enum (s : State) (m : Mode) : (s.setMode m).enum = s.enum := rfl
@[simp] theorem State.setMode_history (s : State) (m : Mode) : (s.setMode m).history = s.history := rfl
@[simp] theorem State.setMode_pending (s : State) (m : Mode) : (s.setMode m).pending = s.pending := rfl
@[simp] theorem State.setMode_env (s : State) (m : Mode) : (s.setMode m).env = s.env := rfl
@[simp] theorem State.setMode_encVariant (s : State) (m : Mode) : (s.setMode m).encVariant = s.encVariant := rfl
@[simp] theorem State.setMode_queue (s : State) (m : Mode) : (s.setMode m).queue = s.queue := rfl
@[simp] theorem State.setMode_response (s : State) (m : Mode) : (s.setMode m).response = s.response := rfl

@[simp] theorem State.setSession_crcAcc (s : State) (c : Session) : (s.setSession c).crcAcc = s.crcAcc := rfl
@[simp] theorem State.setSession_prs (s : State) (c : Session) : (s.setSession c).prs = s.prs := rfl
@[simp] theorem State.setSession_mode (s : State) (c : Session) : (s.setSession c).mode = s.mode := rfl
@[simp] theorem State.setSession_cfgValid (s : State) (c : Session) : (s.setSession c).cfgValid = true := rfl
@[simp] theorem State.setSession_cfg (s : State) (c : Session) : (s.setSession c).cfg = c := rfl
@[simp] theorem State.setSession_liveBaud (s : State) (c : Session) : (s.setSession c).liveBaud = s.liveBaud := rfl
@[simp] theorem State.setSession_enum (s : State) (c : Session) : (s.setSession c).enum = s.enum := rfl
@[simp] theorem State.setSession_history (s : State) (c : Session) : (s.setSession c).history = s.history := rfl
@[simp] theorem State.setSession_pending (s : State) (c : Session) : (s.setSession c).pending = s.pending := rfl
@[simp] theorem State.setSession_env (s : State) (c : Session) : (s.setSession c).env = s.env := rfl
@[simp] theorem State.setSession_encVariant (s : State) (c : Session) : (s.setSession c).encVariant = s.encVariant := rfl
@[simp] theorem State.setSession_queue (s : State) (c : Session) : (s.setSession c).queue = s.queue := rfl
@[simp] theorem State.setSession_response (s : State) (c : Session) : (s.setSession c).response = s.response := rfl

@[simp] theorem State.setLiveBaud_crcAcc (s : State) (b : LiveBaud) : (s.setLiveBaud b).crcAcc = s.crcAcc := rfl
@[simp] theorem State.setLiveBaud_prs (s : State) (b : LiveBaud) : (s.setLiveBaud b).prs = s.prs := rfl
@[simp] theorem State.setLiveBaud_mode (s : State) (b : LiveBaud) : (s.setLiveBaud b).mode = s.mode := rfl
@[simp] theorem State.setLiveBaud_cfgValid (s : State) (b : LiveBaud) : (s.setLiveBaud b).cfgValid = s.cfgValid := rfl
@[simp] theorem State.setLiveBaud_cfg (s : State) (b : LiveBaud) : (s.setLiveBaud b).cfg = s.cfg := rfl
@[simp] theorem State.setLiveBaud_liveBaud (s : State) (b : LiveBaud) : (s.setLiveBaud b).liveBaud = b := rfl
@[simp] theorem State.setLiveBaud_enum (s : State) (b : LiveBaud) : (s.setLiveBaud b).enum = s.enum := rfl
@[simp] theorem State.setLiveBaud_history (s : State) (b : LiveBaud) : (s.setLiveBaud b).history = s.history := rfl
@[simp] theorem State.setLiveBaud_pending (s : State) (b : LiveBaud) : (s.setLiveBaud b).pending = s.pending := rfl
@[simp] theorem State.setLiveBaud_env (s : State) (b : LiveBaud) : (s.setLiveBaud b).env = s.env := rfl
@[simp] theorem State.setLiveBaud_encVariant (s : State) (b : LiveBaud) : (s.setLiveBaud b).encVariant = s.encVariant := rfl
@[simp] theorem State.setLiveBaud_queue (s : State) (b : LiveBaud) : (s.setLiveBaud b).queue = s.queue := rfl
@[simp] theorem State.setLiveBaud_response (s : State) (b : LiveBaud) : (s.setLiveBaud b).response = s.response := rfl

@[simp] theorem State.setEnum_crcAcc (s : State) (e : Cursor) : (s.setEnum e).crcAcc = s.crcAcc := rfl
@[simp] theorem State.setEnum_prs (s : State) (e : Cursor) : (s.setEnum e).prs = s.prs := rfl
@[simp] theorem State.setEnum_mode (s : State) (e : Cursor) : (s.setEnum e).mode = s.mode := rfl
@[simp] theorem State.setEnum_cfgValid (s : State) (e : Cursor) : (s.setEnum e).cfgValid = s.cfgValid := rfl
@[simp] theorem State.setEnum_cfg (s : State) (e : Cursor) : (s.setEnum e).cfg = s.cfg := rfl
@[simp] theorem State.setEnum_liveBaud (s : State) (e : Cursor) : (s.setEnum e).liveBaud = s.liveBaud := rfl
@[simp] theorem State.setEnum_enum (s : State) (e : Cursor) : (s.setEnum e).enum = e := rfl
@[simp] theorem State.setEnum_history (s : State) (e : Cursor) : (s.setEnum e).history = s.history := rfl
@[simp] theorem State.setEnum_pending (s : State) (e : Cursor) : (s.setEnum e).pending = s.pending := rfl
@[simp] theorem State.setEnum_env (s : State) (e : Cursor) : (s.setEnum e).env = s.env := rfl
@[simp] theorem State.setEnum_encVariant (s : State) (e : Cursor) : (s.setEnum e).encVariant = s.encVariant := rfl
@[simp] theorem State.setEnum_queue (s : State) (e : Cursor) : (s.setEnum e).queue = s.queue := rfl
@[simp] theorem State.setEnum_response (s : State) (e : Cursor) : (s.setEnum e).response = s.response := rfl

@[simp] theorem State.record_crcAcc (s : State) (e : Event) : (s.record e).crcAcc = s.crcAcc := rfl
@[simp] theorem State.record_prs (s : State) (e : Event) : (s.record e).prs = s.prs := rfl
@[simp] theorem State.record_mode (s : State) (e : Event) : (s.record e).mode = s.mode := rfl
@[simp] theorem State.record_cfgValid (s : State) (e : Event) : (s.record e).cfgValid = s.cfgValid := rfl
@[simp] theorem State.record_cfg (s : State) (e : Event) : (s.record e).cfg = s.cfg := rfl
@[simp] theorem State.record_liveBaud (s : State) (e : Event) : (s.record e).liveBaud = s.liveBaud := rfl
@[simp] theorem State.record_enum (s : State) (e : Event) : (s.record e).enum = s.enum := rfl
@[simp] theorem State.record_history (s : State) (e : Event) : (s.record e).history = s.history ++ [e] := rfl
@[simp] theorem State.record_pending (s : State) (e : Event) : (s.record e).pending = s.pending := rfl
@[simp] theorem State.record_env (s : State) (e : Event) : (s.record e).env = s.env := rfl
@[simp] theorem State.record_encVariant (s : State) (e : Event) : (s.record e).encVariant = s.encVariant := rfl
@[simp] theorem State.record_queue (s : State) (e : Event) : (s.record e).queue = s.queue := rfl
@[simp] theorem State.record_response (s : State) (e : Event) : (s.record e).response = s.response := rfl

@[simp] theorem State.setPending_crcAcc (s : State) (xs : List Byte) : (s.setPending xs).crcAcc = s.crcAcc := rfl
@[simp] theorem State.setPending_prs (s : State) (xs : List Byte) : (s.setPending xs).prs = s.prs := rfl
@[simp] theorem State.setPending_mode (s : State) (xs : List Byte) : (s.setPending xs).mode = s.mode := rfl
@[simp] theorem State.setPending_cfgValid (s : State) (xs : List Byte) : (s.setPending xs).cfgValid = s.cfgValid := rfl
@[simp] theorem State.setPending_cfg (s : State) (xs : List Byte) : (s.setPending xs).cfg = s.cfg := rfl
@[simp] theorem State.setPending_liveBaud (s : State) (xs : List Byte) : (s.setPending xs).liveBaud = s.liveBaud := rfl
@[simp] theorem State.setPending_enum (s : State) (xs : List Byte) : (s.setPending xs).enum = s.enum := rfl
@[simp] theorem State.setPending_history (s : State) (xs : List Byte) : (s.setPending xs).history = s.history := rfl
@[simp] theorem State.setPending_pending (s : State) (xs : List Byte) : (s.setPending xs).pending = xs := rfl
@[simp] theorem State.setPending_env (s : State) (xs : List Byte) : (s.setPending xs).env = s.env := rfl
@[simp] theorem State.setPending_encVariant (s : State) (xs : List Byte) : (s.setPending xs).encVariant = s.encVariant := rfl
@[simp] theorem State.setPending_queue (s : State) (xs : List Byte) : (s.setPending xs).queue = s.queue := rfl
@[simp] theorem State.setPending_response (s : State) (xs : List Byte) : (s.setPending xs).response = s.response := rfl

@[simp] theorem State.setEnv_crcAcc (s : State) (e : Env) : (s.setEnv e).crcAcc = s.crcAcc := rfl
@[simp] theorem State.setEnv_prs (s : State) (e : Env) : (s.setEnv e).prs = s.prs := rfl
@[simp] theorem State.setEnv_mode (s : State) (e : Env) : (s.setEnv e).mode = s.mode := rfl
@[simp] theorem State.setEnv_cfgValid (s : State) (e : Env) : (s.setEnv e).cfgValid = s.cfgValid := rfl
@[simp] theorem State.setEnv_cfg (s : State) (e : Env) : (s.setEnv e).cfg = s.cfg := rfl
@[simp] theorem State.setEnv_liveBaud (s : State) (e : Env) : (s.setEnv e).liveBaud = s.liveBaud := rfl
@[simp] theorem State.setEnv_enum (s : State) (e : Env) : (s.setEnv e).enum = s.enum := rfl
@[simp] theorem State.setEnv_history (s : State) (e : Env) : (s.setEnv e).history = s.history := rfl
@[simp] theorem State.setEnv_pending (s : State) (e : Env) : (s.setEnv e).pending = s.pending := rfl
@[simp] theorem State.setEnv_env (s : State) (e : Env) : (s.setEnv e).env = e := rfl
@[simp] theorem State.setEnv_encVariant (s : State) (e : Env) : (s.setEnv e).encVariant = s.encVariant := rfl
@[simp] theorem State.setEnv_queue (s : State) (e : Env) : (s.setEnv e).queue = s.queue := rfl
@[simp] theorem State.setEnv_response (s : State) (e : Env) : (s.setEnv e).response = s.response := rfl

@[simp] theorem State.setQueue_crcAcc (s : State) (q : List Item) : (s.setQueue q).crcAcc = s.crcAcc := rfl
@[simp] theorem State.setQueue_prs (s : State) (q : List Item) : (s.setQueue q).prs = s.prs := rfl
@[simp] theorem State.setQueue_mode (s : State) (q : List Item) : (s.setQueue q).mode = s.mode := rfl
@[simp] theorem State.setQueue_cfgValid (s : State) (q : List Item) : (s.setQueue q).cfgValid = s.cfgValid := rfl
@[simp] theorem State.setQueue_cfg (s : State) (q : List Item) : (s.setQueue q).cfg = s.cfg := rfl
@[simp] theorem State.setQueue_liveBaud (s : State) (q : List Item) : (s.setQueue q).liveBaud = s.liveBaud := rfl
@[simp] theorem State.setQueue_enum (s : State) (q : List Item) : (s.setQueue q).enum = s.enum := rfl
@[simp] theorem State.setQueue_history (s : State) (q : List Item) : (s.setQueue q).history = s.history := rfl
@[simp] theorem State.setQueue_pending (s : State) (q : List Item) : (s.setQueue q).pending = s.pending := rfl
@[simp] theorem State.setQueue_env (s : State) (q : List Item) : (s.setQueue q).env = s.env := rfl
@[simp] theorem State.setQueue_encVariant (s : State) (q : List Item) : (s.setQueue q).encVariant = s.encVariant := rfl
@[simp] theorem State.setQueue_queue (s : State) (q : List Item) : (s.setQueue q).queue = q := rfl
@[simp] theorem State.setQueue_response (s : State) (q : List Item) : (s.setQueue q).response = s.response := rfl

@[simp] theorem State.respond_crcAcc (s : State) (r : Response) : (s.respond r).crcAcc = s.crcAcc := rfl
@[simp] theorem State.respond_prs (s : State) (r : Response) : (s.respond r).prs = s.prs := rfl
@[simp] theorem State.respond_mode (s : State) (r : Response) : (s.respond r).mode = s.mode := rfl
@[simp] theorem State.respond_cfgValid (s : State) (r : Response) : (s.respond r).cfgValid = s.cfgValid := rfl
@[simp] theorem State.respond_cfg (s : State) (r : Response) : (s.respond r).cfg = s.cfg := rfl
@[simp] theorem State.respond_liveBaud (s : State) (r : Response) : (s.respond r).liveBaud = s.liveBaud := rfl
@[simp] theorem State.respond_enum (s : State) (r : Response) : (s.respond r).enum = s.enum := rfl
@[simp] theorem State.respond_history (s : State) (r : Response) : (s.respond r).history = s.history := rfl
@[simp] theorem State.respond_pending (s : State) (r : Response) : (s.respond r).pending = s.pending := rfl
@[simp] theorem State.respond_env (s : State) (r : Response) : (s.respond r).env = s.env := rfl
@[simp] theorem State.respond_encVariant (s : State) (r : Response) : (s.respond r).encVariant = s.encVariant := rfl
@[simp] theorem State.respond_queue (s : State) (r : Response) : (s.respond r).queue = s.queue := rfl
@[simp] theorem State.respond_response (s : State) (r : Response) : (s.respond r).response = some r := rfl

@[simp] theorem State.usedFlush_crcAcc (s : State) : s.usedFlush.crcAcc = s.crcAcc := rfl
@[simp] theorem State.usedFlush_prs (s : State) : s.usedFlush.prs = s.prs := rfl
@[simp] theorem State.usedFlush_mode (s : State) : s.usedFlush.mode = s.mode := rfl
@[simp] theorem State.usedFlush_cfgValid (s : State) : s.usedFlush.cfgValid = s.cfgValid := rfl
@[simp] theorem State.usedFlush_cfg (s : State) : s.usedFlush.cfg = s.cfg := rfl
@[simp] theorem State.usedFlush_liveBaud (s : State) : s.usedFlush.liveBaud = s.liveBaud := rfl
@[simp] theorem State.usedFlush_enum (s : State) : s.usedFlush.enum = s.enum := rfl
@[simp] theorem State.usedFlush_history (s : State) : s.usedFlush.history = s.history := rfl
@[simp] theorem State.usedFlush_pending (s : State) : s.usedFlush.pending = s.pending := rfl
@[simp] theorem State.usedFlush_env (s : State) : s.usedFlush.env = { s.env with flushes := s.env.flushes.advance } := rfl
@[simp] theorem State.usedFlush_encVariant (s : State) : s.usedFlush.encVariant = s.encVariant := rfl
@[simp] theorem State.usedFlush_queue (s : State) : s.usedFlush.queue = s.queue := rfl
@[simp] theorem State.usedFlush_response (s : State) : s.usedFlush.response = s.response := rfl

@[simp] theorem State.usedWrite_crcAcc (s : State) : s.usedWrite.crcAcc = s.crcAcc := rfl
@[simp] theorem State.usedWrite_prs (s : State) : s.usedWrite.prs = s.prs := rfl
@[simp] theorem State.usedWrite_mode (s : State) : s.usedWrite.mode = s.mode := rfl
@[simp] theorem State.usedWrite_cfgValid (s : State) : s.usedWrite.cfgValid = s.cfgValid := rfl
@[simp] theorem State.usedWrite_cfg (s : State) : s.usedWrite.cfg = s.cfg := rfl
@[simp] theorem State.usedWrite_liveBaud (s : State) : s.usedWrite.liveBaud = s.liveBaud := rfl
@[simp] theorem State.usedWrite_enum (s : State) : s.usedWrite.enum = s.enum := rfl
@[simp] theorem State.usedWrite_history (s : State) : s.usedWrite.history = s.history := rfl
@[simp] theorem State.usedWrite_pending (s : State) : s.usedWrite.pending = s.pending := rfl
@[simp] theorem State.usedWrite_env (s : State) : s.usedWrite.env = { s.env with writes := s.env.writes.advance } := rfl
@[simp] theorem State.usedWrite_encVariant (s : State) : s.usedWrite.encVariant = s.encVariant := rfl
@[simp] theorem State.usedWrite_queue (s : State) : s.usedWrite.queue = s.queue := rfl
@[simp] theorem State.usedWrite_response (s : State) : s.usedWrite.response = s.response := rfl

@[simp] theorem State.usedRead_crcAcc (s : State) : s.usedRead.crcAcc = s.crcAcc := rfl
@[simp] theorem State.usedRead_prs (s : State) : s.usedRead.prs = s.prs := rfl
@[simp] theorem State.usedRead_mode (s : State) : s.usedRead.mode = s.mode := rfl
@[simp] theorem State.usedRead_cfgValid (s : State) : s.usedRead.cfgValid = s.cfgValid := rfl
@[simp] theorem State.usedRead_cfg (s : State) : s.usedRead.cfg = s.cfg := rfl
@[simp] theorem State.usedRead_liveBaud (s : State) : s.usedRead.liveBaud = s.liveBaud := rfl
@[simp] theorem State.usedRead_enum (s : State) : s.usedRead.enum = s.enum := rfl
@[simp] theorem State.usedRead_history (s : State) : s.usedRead.history = s.history := rfl
@[simp] theorem State.usedRead_pending (s : State) : s.usedRead.pending = s.pending := rfl
@[simp] theorem State.usedRead_env (s : State) : s.usedRead.env = { s.env with reads := s.env.reads.advance } := rfl
@[simp] theorem State.usedRead_encVariant (s : State) : s.usedRead.encVariant = s.encVariant := rfl
@[simp] theorem State.usedRead_queue (s : State) : s.usedRead.queue = s.queue := rfl
@[simp] theorem State.usedRead_response (s : State) : s.usedRead.response = s.response := rfl

@[simp] theorem State.usedLine_crcAcc (s : State) : s.usedLine.crcAcc = s.crcAcc := rfl
@[simp] theorem State.usedLine_prs (s : State) : s.usedLine.prs = s.prs := rfl
@[simp] theorem State.usedLine_mode (s : State) : s.usedLine.mode = s.mode := rfl
@[simp] theorem State.usedLine_cfgValid (s : State) : s.usedLine.cfgValid = s.cfgValid := rfl
@[simp] theorem State.usedLine_cfg (s : State) : s.usedLine.cfg = s.cfg := rfl
@[simp] theorem State.usedLine_liveBaud (s : State) : s.usedLine.liveBaud = s.liveBaud := rfl
@[simp] theorem State.usedLine_enum (s : State) : s.usedLine.enum = s.enum := rfl
@[simp] theorem State.usedLine_history (s : State) : s.usedLine.history = s.history := rfl
@[simp] theorem State.usedLine_pending (s : State) : s.usedLine.pending = s.pending := rfl
@[simp] theorem State.usedLine_env (s : State) : s.usedLine.env = { s.env with lines := s.env.lines.advance } := rfl
@[simp] theorem State.usedLine_encVariant (s : State) : s.usedLine.encVariant = s.encVariant := rfl
@[simp] theorem State.usedLine_queue (s : State) : s.usedLine.queue = s.queue := rfl
@[simp] theorem State.usedLine_response (s : State) : s.usedLine.response = s.response := rfl

@[simp] theorem Feed.draw_advance {α : Type} (free : Nat → α) (f : Feed α) (k : Nat) :
    f.advance.draw free k = f.draw free (k + 1) := by
  rcases f with ⟨_ | ⟨d, ds⟩, b⟩
  · simp [Feed.advance, Feed.draw, Nat.add_comm, Nat.add_left_comm]
  · simp [Feed.advance, Feed.draw]

@[simp] theorem State.setCrc_flushDraw (s : State) (c : Byte) (k : Nat) : (s.setCrc c).flushDraw k = s.flushDraw k := rfl
@[simp] theorem State.setCrc_writeDraw (s : State) (c : Byte) (k : Nat) : (s.setCrc c).writeDraw k = s.writeDraw k := rfl
@[simp] theorem State.setCrc_readDraw (s : State) (c : Byte) (k : Nat) : (s.setCrc c).readDraw k = s.readDraw k := rfl
@[simp] theorem State.setCrc_lineDraw (s : State) (c : Byte) (k : Nat) : (s.setCrc c).lineDraw k = s.lineDraw k := rfl
@[simp] theorem State.setPrs_flushDraw (s : State) (p : Parser) (k : Nat) : (s.setPrs p).flushDraw k = s.flushDraw k := rfl
@[simp] theorem State.setPrs_writeDraw (s : State) (p : Parser) (k : Nat) : (s.setPrs p).writeDraw k = s.writeDraw k := rfl
@[simp] theorem State.setPrs_readDraw (s : State) (p : Parser) (k : Nat) : (s.setPrs p).readDraw k = s.readDraw k := rfl
@[simp] theorem State.setPrs_lineDraw (s : State) (p : Parser) (k : Nat) : (s.setPrs p).lineDraw k = s.lineDraw k := rfl
@[simp] theorem State.setMode_flushDraw (s : State) (m : Mode) (k : Nat) : (s.setMode m).flushDraw k = s.flushDraw k := rfl
@[simp] theorem State.setMode_writeDraw (s : State) (m : Mode) (k : Nat) : (s.setMode m).writeDraw k = s.writeDraw k := rfl
@[simp] theorem State.setMode_readDraw (s : State) (m : Mode) (k : Nat) : (s.setMode m).readDraw k = s.readDraw k := rfl
@[simp] theorem State.setMode_lineDraw (s : State) (m : Mode) (k : Nat) : (s.setMode m).lineDraw k = s.lineDraw k := rfl
@[simp] theorem State.setSession_flushDraw (s : State) (c : Session) (k : Nat) : (s.setSession c).flushDraw k = s.flushDraw k := rfl
@[simp] theorem State.setSession_writeDraw (s : State) (c : Session) (k : Nat) : (s.setSession c).writeDraw k = s.writeDraw k := rfl
@[simp] theorem State.setSession_readDraw (s : State) (c : Session) (k : Nat) : (s.setSession c).readDraw k = s.readDraw k := rfl
@[simp] theorem State.setSession_lineDraw (s : State) (c : Session) (k : Nat) : (s.setSession c).lineDraw k = s.lineDraw k := rfl
@[simp] theorem State.setLiveBaud_flushDraw (s : State) (b : LiveBaud) (k : Nat) : (s.setLiveBaud b).flushDraw k = s.flushDraw k := rfl
@[simp] theorem State.setLiveBaud_writeDraw (s : State) (b : LiveBaud) (k : Nat) : (s.setLiveBaud b).writeDraw k = s.writeDraw k := rfl
@[simp] theorem State.setLiveBaud_readDraw (s : State) (b : LiveBaud) (k : Nat) : (s.setLiveBaud b).readDraw k = s.readDraw k := rfl
@[simp] theorem State.setLiveBaud_lineDraw (s : State) (b : LiveBaud) (k : Nat) : (s.setLiveBaud b).lineDraw k = s.lineDraw k := rfl
@[simp] theorem State.setEnum_flushDraw (s : State) (e : Cursor) (k : Nat) : (s.setEnum e).flushDraw k = s.flushDraw k := rfl
@[simp] theorem State.setEnum_writeDraw (s : State) (e : Cursor) (k : Nat) : (s.setEnum e).writeDraw k = s.writeDraw k := rfl
@[simp] theorem State.setEnum_readDraw (s : State) (e : Cursor) (k : Nat) : (s.setEnum e).readDraw k = s.readDraw k := rfl
@[simp] theorem State.setEnum_lineDraw (s : State) (e : Cursor) (k : Nat) : (s.setEnum e).lineDraw k = s.lineDraw k := rfl
@[simp] theorem State.record_flushDraw (s : State) (e : Event) (k : Nat) : (s.record e).flushDraw k = s.flushDraw k := rfl
@[simp] theorem State.record_writeDraw (s : State) (e : Event) (k : Nat) : (s.record e).writeDraw k = s.writeDraw k := rfl
@[simp] theorem State.record_readDraw (s : State) (e : Event) (k : Nat) : (s.record e).readDraw k = s.readDraw k := rfl
@[simp] theorem State.record_lineDraw (s : State) (e : Event) (k : Nat) : (s.record e).lineDraw k = s.lineDraw k := rfl
@[simp] theorem State.setPending_flushDraw (s : State) (xs : List Byte) (k : Nat) : (s.setPending xs).flushDraw k = s.flushDraw k := rfl
@[simp] theorem State.setPending_writeDraw (s : State) (xs : List Byte) (k : Nat) : (s.setPending xs).writeDraw k = s.writeDraw k := rfl
@[simp] theorem State.setPending_readDraw (s : State) (xs : List Byte) (k : Nat) : (s.setPending xs).readDraw k = s.readDraw k := rfl
@[simp] theorem State.setPending_lineDraw (s : State) (xs : List Byte) (k : Nat) : (s.setPending xs).lineDraw k = s.lineDraw k := rfl
@[simp] theorem State.setQueue_flushDraw (s : State) (q : List Item) (k : Nat) : (s.setQueue q).flushDraw k = s.flushDraw k := rfl
@[simp] theorem State.setQueue_writeDraw (s : State) (q : List Item) (k : Nat) : (s.setQueue q).writeDraw k = s.writeDraw k := rfl
@[simp] theorem State.setQueue_readDraw (s : State) (q : List Item) (k : Nat) : (s.setQueue q).readDraw k = s.readDraw k := rfl
@[simp] theorem State.setQueue_lineDraw (s : State) (q : List Item) (k : Nat) : (s.setQueue q).lineDraw k = s.lineDraw k := rfl
@[simp] theorem State.respond_flushDraw (s : State) (r : Response) (k : Nat) : (s.respond r).flushDraw k = s.flushDraw k := rfl
@[simp] theorem State.respond_writeDraw (s : State) (r : Response) (k : Nat) : (s.respond r).writeDraw k = s.writeDraw k := rfl
@[simp] theorem State.respond_readDraw (s : State) (r : Response) (k : Nat) : (s.respond r).readDraw k = s.readDraw k := rfl
@[simp] theorem State.respond_lineDraw (s : State) (r : Response) (k : Nat) : (s.respond r).lineDraw k = s.lineDraw k := rfl
@[simp] theorem State.usedFlush_flushDraw (s : State) (k : Nat) : s.usedFlush.flushDraw k = s.flushDraw (k + 1) := Feed.draw_advance _ _ k
@[simp] theorem State.usedFlush_writeDraw (s : State) (k : Nat) : s.usedFlush.writeDraw k = s.writeDraw k := rfl
@[simp] theorem State.usedFlush_readDraw (s : State) (k : Nat) : s.usedFlush.readDraw k = s.readDraw k := rfl
@[simp] theorem State.usedFlush_lineDraw (s : State) (k : Nat) : s.usedFlush.lineDraw k = s.lineDraw k := rfl
@[simp] theorem State.usedWrite_flushDraw (s : State) (k : Nat) : s.usedWrite.flushDraw k = s.flushDraw k := rfl
@[simp] theorem State.usedWrite_writeDraw (s : State) (k : Nat) : s.usedWrite.writeDraw k = s.writeDraw (k + 1) := Feed.draw_advance _ _ k
@[simp] theorem State.usedWrite_readDraw (s : State) (k : Nat) : s.usedWrite.readDraw k = s.readDraw k := rfl
@[simp] theorem State.usedWrite_lineDraw (s : State) (k : Nat) : s.usedWrite.lineDraw k = s.lineDraw k := rfl
@[simp] theorem State.usedRead_flushDraw (s : State) (k : Nat) : s.usedRead.flushDraw k = s.flushDraw k := rfl
@[simp] theorem State.usedRead_writeDraw (s : State) (k : Nat) : s.usedRead.writeDraw k = s.writeDraw k := rfl
@[simp] theorem State.usedRead_readDraw (s : State) (k : Nat) : s.usedRead.readDraw k = s.readDraw (k + 1) := Feed.draw_advance _ _ k
@[simp] theorem State.usedRead_lineDraw (s : State) (k : Nat) : s.usedRead.lineDraw k = s.lineDraw k := rfl
@[simp] theorem State.usedLine_flushDraw (s : State) (k : Nat) : s.usedLine.flushDraw k = s.flushDraw k := rfl
@[simp] theorem State.usedLine_writeDraw (s : State) (k : Nat) : s.usedLine.writeDraw k = s.writeDraw k := rfl
@[simp] theorem State.usedLine_readDraw (s : State) (k : Nat) : s.usedLine.readDraw k = s.readDraw k := rfl
@[simp] theorem State.usedLine_lineDraw (s : State) (k : Nat) : s.usedLine.lineDraw k = s.lineDraw (k + 1) := Feed.draw_advance _ _ k

end Sys2Proof.Machine
end

