-- ==== Sys2Proof/Laws/Ops.lean ====
section
/-! SUPPORT. What each shared operation can do: the transport primitives under each draw, and, for every operation that runs
them, what it keeps, how often it runs DETECT's body and which errors it can raise. -/

namespace Sys2Proof.Machine

/-! ### Pieces of an operation -/

@[simp] theorem Ran.bind_ok {α β : Type} (a : α) (s : State) (k : α → State → Ran β) :
    (Ran.ok a s).bind k = k a s := rfl

@[simp] theorem Ran.bind_err {α β : Type} (e : Err) (s : State) (k : α → State → Ran β) :
    (Ran.err e s : Ran α).bind k = .err e s := rfl

@[simp] theorem Ran.bind_hung {α β : Type} (s : State) (k : α → State → Ran β) :
    (Ran.hung s : Ran α).bind k = .hung s := rfl

@[simp] theorem raise_eq {α : Type} (e : Err) (s : State) : (raise e s : Ran α) = .err e s := rfl

@[simp] theorem finish_ok (r : Result) (s : State) : finish (.ok r s) = .next (s.respond (.result r)) := rfl

@[simp] theorem finish_err (e : Err) (s : State) : finish (.err e s) = .next (s.respond (.error e)) := rfl

@[simp] theorem finish_hung (s : State) : finish (.hung s) = .fault (.hung s) := rfl

theorem configured_pos {s : State} (h : s.cfgValid = true) (r : State → Ran Result) :
    configured r s = finish (r s) := by simp [configured, h]

theorem configured_neg {s : State} (h : s.cfgValid = false) (r : State → Ran Result) :
    configured r s = .refused .unconfigured := by simp [configured, h]

/-- An operation that completes is configured, and its response is the result or the error of its body. -/
theorem configured_next {r : State → Ran Result} {s t : State} (h : configured r s = .next t) :
    s.cfgValid = true ∧
      ((∃ a u, r s = .ok a u ∧ t = u.respond (.result a)) ∨ (∃ e u, r s = .err e u ∧ t = u.respond (.error e))) := by
  unfold configured at h
  split at h
  · refine ⟨‹_›, ?_⟩
    cases hr : r s <;> rw [hr] at h <;> simp [finish] at h
    · exact .inl ⟨_, _, rfl, h.symm⟩
    · exact .inr ⟨_, _, rfl, h.symm⟩
  · cases h

theorem configured_fault {r : State → Ran Result} {s : State} {f : Fault} (h : configured r s = .fault f) :
    s.cfgValid = true ∧ ∃ u, r s = .hung u ∧ f = .hung u := by
  unfold configured at h
  split at h
  · refine ⟨‹_›, ?_⟩
    cases hr : r s <;> rw [hr] at h <;> simp [finish] at h
    exact ⟨_, rfl, h.symm⟩
  · cases h

/-! ### The primitives under each draw -/

theorem txFlush_ok {s : State} (h : s.flushDraw 0 = true) :
    txFlush s = .ok () ((s.usedFlush.setPending []).record (.flush true)) := by simp [txFlush, h]

theorem txFlush_err {s : State} (h : s.flushDraw 0 = false) :
    txFlush s = .err (.transport .flush) (s.usedFlush.record (.flush false)) := by simp [txFlush, h]

theorem txWrite_ok {s : State} {xs : List Byte} (h : writeOutcome xs.length (s.writeDraw 0) = .ok) :
    txWrite xs s = .ok () (s.usedWrite.record (.write xs .ok)) := by simp [txWrite, h]

theorem txWrite_short {s : State} {xs : List Byte} {k : Nat}
    (h : writeOutcome xs.length (s.writeDraw 0) = .short k) :
    txWrite xs s = .err (.transport .shortWrite) (s.usedWrite.record (.write xs (.short k))) := by simp [txWrite, h]

theorem txWrite_error {s : State} {xs : List Byte} (h : writeOutcome xs.length (s.writeDraw 0) = .error) :
    txWrite xs s = .err (.transport .write) (s.usedWrite.record (.write xs .error)) := by simp [txWrite, h]

/-- The phase of a write that did not succeed (60_exceptions R262). -/
theorem WriteResult.phase_eq {r : WriteResult} (h : r ≠ .ok) :
    (r = .error → r.phase = .write) ∧ (r ≠ .error → r.phase = .shortWrite) := by
  cases r
  · exact absurd rfl h
  · exact ⟨fun h => (by cases h), fun _ => rfl⟩
  · exact ⟨fun _ => rfl, fun h => absurd rfl h⟩

/-- A write that does not succeed (20_memory R53, 60_exceptions R262). -/
theorem txWrite_err {s : State} {xs : List Byte} (h : writeOutcome xs.length (s.writeDraw 0) ≠ .ok) :
    txWrite xs s = .err (.transport (writeOutcome xs.length (s.writeDraw 0)).phase)
      (s.usedWrite.record (.write xs (writeOutcome xs.length (s.writeDraw 0)))) := by
  cases hr : writeOutcome xs.length (s.writeDraw 0)
  · exact absurd hr h
  · exact txWrite_short hr
  · exact txWrite_error hr

@[simp] theorem rxRead_zero (s : State) : rxRead 0 s = .ok [] s := rfl

theorem rxRead_bytes {s : State} {n : Nat} {xs : List Byte} (hn : n ≠ 0)
    (h : readOutcome n s.pending (s.readDraw 0) = .bytes xs) : rxRead n s = .ok xs (s.afterRead n) := by
  simp [rxRead, hn, h]

theorem rxRead_short {s : State} {n : Nat} (hn : n ≠ 0)
    (h : readOutcome n s.pending (s.readDraw 0) = .short) :
    rxRead n s = .err (.transport .shortRead) (s.afterRead n) := by simp [rxRead, hn, h]

theorem rxRead_error {s : State} {n : Nat} (hn : n ≠ 0)
    (h : readOutcome n s.pending (s.readDraw 0) = .error) :
    rxRead n s = .err (.transport .read) (s.afterRead n) := by simp [rxRead, hn, h]

theorem rxRead_hang {s : State} {n : Nat} (hn : n ≠ 0)
    (h : readOutcome n s.pending (s.readDraw 0) = .hang) : rxRead n s = .hung (s.afterRead n) := by
  simp [rxRead, hn, h]

/-- The bytes a read delivers are as many as were asked for. -/
theorem length_of_readOutcome {n : Nat} {waiting xs : List Byte} {d : ReadDraw}
    (h : readOutcome n waiting d = .bytes xs) : xs.length = n := by
  cases d with
  | arrive ys =>
    simp only [readOutcome] at h
    split at h
    · rename_i hn; cases h; rw [List.length_take]; omega
    · cases h
  | error => cases h
  | hang => cases h

theorem lineControl_ok {s : State} (event : Bool → Event) (h : s.lineDraw 0 = true) :
    lineControl event s = .ok () (s.usedLine.record (event true)) := by simp [lineControl, h]

theorem lineControl_err {s : State} (event : Bool → Event) (h : s.lineDraw 0 = false) :
    lineControl event s = .err (.transport .line) (s.usedLine.record (event false)) := by simp [lineControl, h]

/-! ### Transactions -/

/-- A transaction whose frame is sent and which is answered. -/
theorem transact_ok {m : Mode} {tx rx : List Byte} {n : Nat} {s : State} (hs : Sends s 0 (frameFor m tx s).length)
    (hr : Answered s n rx) : transact m tx n s = .ok rx (s.exchanged m tx n) := by
  have h1 : txFlush (s.setMode m) = .ok () (((s.setMode m).usedFlush.setPending []).record (.flush true)) :=
    txFlush_ok (by simpa using hs.1)
  have h2 : txWrite (frameFor m tx s) (((s.setMode m).usedFlush.setPending []).record (.flush true)) =
      .ok () (s.sent m tx) := txWrite_ok (by simpa using hs.2)
  rw [transact, h1, Ran.bind_ok, h2, Ran.bind_ok]
  rcases hr with ⟨rfl, rfl⟩ | ⟨hn, hr⟩
  · rfl
  · have h3 : rxRead n (s.sent m tx) = .ok rx ((s.sent m tx).afterRead n) :=
      rxRead_bytes hn (by simpa [State.sent] using hr)
    rw [h3, State.exchanged, if_neg hn]
    rfl

/-- A transaction whose flush fails raises, with MODE recorded (43_frame_mode R192, R193). -/
theorem transact_flush_err {m : Mode} {tx : List Byte} {n : Nat} {s : State} (h : s.flushDraw 0 = false) :
    transact m tx n s = .err (.transport .flush) ((s.setMode m).usedFlush.record (.flush false)) := by
  rw [transact, txFlush_err (by simpa using h)]
  rfl

/-- A transaction whose write fails raises, with MODE recorded (43_frame_mode R192, R193). -/
theorem transact_write_err {m : Mode} {tx : List Byte} {n : Nat} {s : State} (hf : s.flushDraw 0 = true)
    (h : writeOutcome (frameFor m tx s).length (s.writeDraw 0) ≠ .ok) :
    transact m tx n s = .err (.transport (writeOutcome (frameFor m tx s).length (s.writeDraw 0)).phase)
      ((((s.setMode m).usedFlush.setPending []).record (.flush true)).usedWrite.record
        (.write (frameFor m tx s) (writeOutcome (frameFor m tx s).length (s.writeDraw 0)))) := by
  rw [transact, txFlush_ok (by simpa using hf), Ran.bind_ok, txWrite_err (by simpa using h)]
  simp

/-- A transaction whose read fails runs Resync and raises the read's error (43_frame_mode R192). -/
theorem transact_read_err {m : Mode} {tx : List Byte} {n : Nat} {s t : State} {e : Err}
    (hs : Sends s 0 (frameFor m tx s).length) (hr : rxRead n (s.sent m tx) = .err e t) :
    transact m tx n s = resyncRaise e t := by
  have h1 : txFlush (s.setMode m) = .ok () (((s.setMode m).usedFlush.setPending []).record (.flush true)) :=
    txFlush_ok (by simpa using hs.1)
  have h2 : txWrite (frameFor m tx s) (((s.setMode m).usedFlush.setPending []).record (.flush true)) =
      .ok () (s.sent m tx) := txWrite_ok (by simpa using hs.2)
  rw [transact, h1, Ran.bind_ok, h2, Ran.bind_ok, hr]
  rfl

/-- What a property of every state a piece of an operation can end in says. -/
def RanAll {α : Type} (P : State → Prop) (r : Ran α) : Prop :=
  match r with
  | .ok _ t => P t
  | .err _ t => P t
  | .hung t => P t

theorem RanAll.bind {α β : Type} {P : State → Prop} {r : Ran α} {k : α → State → Ran β} (h : RanAll P r)
    (hk : ∀ x t, r = .ok x t → P t → RanAll P (k x t)) : RanAll P (r.bind k) := by
  cases r with
  | ok x t => exact hk x t rfl h
  | err e t => exact h
  | hung t => exact h

/-- A primitive that leaves MODE alone. -/
theorem RanAll.mode_primitive {s : State} (m : Mode) (hm : s.mode = m) :
    RanAll (·.mode = m) (txFlush s) ∧ (∀ xs, RanAll (·.mode = m) (txWrite xs s)) ∧
      (∀ n, RanAll (·.mode = m) (rxRead n s)) ∧ ∀ e, RanAll (·.mode = m) (lineControl e s) := by
  refine ⟨?_, fun xs => ?_, fun n => ?_, fun e => ?_⟩
  · unfold txFlush; split <;> exact hm
  · unfold txWrite; split <;> exact hm
  · unfold rxRead; split
    · exact hm
    · split <;> exact hm
  · unfold lineControl; split <;> exact hm

/-- MODE is COMMAND however DETECT's body ends (43_frame_mode R211). -/
theorem detectBody_mode (s : State) : RanAll (·.mode = .command) (detectBody s) := by
  unfold detectBody
  refine RanAll.bind ((RanAll.mode_primitive _ rfl).2.2.2 _) fun _ t _ h => ?_
  refine RanAll.bind ((RanAll.mode_primitive _ h).2.2.2 _) fun _ t _ h => ?_
  refine RanAll.bind ((RanAll.mode_primitive (s := t.setLiveBaud (.code 0#2)) _ h).2.2.2 _) fun _ t _ h => ?_
  refine RanAll.bind (RanAll.mode_primitive (s := delay _ t) _ h).1 fun _ t _ h => ?_
  refine RanAll.bind ((RanAll.mode_primitive _ h).2.1 _) fun _ t _ h => ?_
  refine RanAll.bind ((RanAll.mode_primitive (s := delay _ t) _ h).2.1 _) fun _ t _ h => ?_
  refine RanAll.bind ((RanAll.mode_primitive _ h).2.2.1 _) fun _ t _ h => h

/-! ### What transport operations keep -/

/-- `t` comes from `s` by transport primitives: they leave every register but MODE and LIVE_BAUD, they only add to the
history, and they run DETECT's body at most `n` times. -/
structure Carries (n : Nat) (s t : State) : Prop where
  crcAcc : t.crcAcc = s.crcAcc
  prs : t.prs = s.prs
  cfgValid : t.cfgValid = s.cfgValid
  cfg : t.cfg = s.cfg
  enum : t.enum = s.enum
  encVariant : t.encVariant = s.encVariant
  queue : t.queue = s.queue
  response : t.response = s.response
  history : ∃ es, t.history = s.history ++ es ∧ detectRuns es ≤ n

theorem detectRuns_append (xs ys : List Event) : detectRuns (xs ++ ys) = detectRuns xs + detectRuns ys := by
  simp [detectRuns]

theorem Carries.refl (s : State) : Carries 0 s s :=
  ⟨rfl, rfl, rfl, rfl, rfl, rfl, rfl, rfl, [], by simp, by simp [detectRuns]⟩

theorem Carries.trans {m n : Nat} {s t u : State} (h : Carries m s t) (k : Carries n t u) : Carries (m + n) s u := by
  obtain ⟨xs, hx, hm⟩ := h.history
  obtain ⟨ys, hy, hn⟩ := k.history
  exact ⟨k.crcAcc.trans h.crcAcc, k.prs.trans h.prs, k.cfgValid.trans h.cfgValid, k.cfg.trans h.cfg,
    k.enum.trans h.enum, k.encVariant.trans h.encVariant, k.queue.trans h.queue, k.response.trans h.response,
    xs ++ ys, by rw [hy, hx, List.append_assoc], by rw [detectRuns_append]; omega⟩

theorem Carries.mono {m n : Nat} {s t : State} (h : Carries m s t) (hmn : m ≤ n) : Carries n s t := by
  obtain ⟨xs, hx, hm⟩ := h.history
  exact ⟨h.crcAcc, h.prs, h.cfgValid, h.cfg, h.enum, h.encVariant, h.queue, h.response, xs, hx, hm.trans hmn⟩

theorem Carries.after {n : Nat} {s t u : State} (h : Carries 0 s t) (k : Carries n t u) : Carries n s u :=
  (h.trans k).mono (by omega)

theorem Carries.record {s : State} {e : Event} (h : e.isSetLine = false) : Carries 0 s (s.record e) :=
  ⟨rfl, rfl, rfl, rfl, rfl, rfl, rfl, rfl, [e], rfl, by simp [detectRuns, h]⟩

theorem Carries.record_setLine {s : State} (e : Event) : Carries 1 s (s.record e) :=
  ⟨rfl, rfl, rfl, rfl, rfl, rfl, rfl, rfl, [e], rfl, List.countP_le_length⟩

theorem Carries.setMode (s : State) (m : Mode) : Carries 0 s (s.setMode m) :=
  ⟨rfl, rfl, rfl, rfl, rfl, rfl, rfl, rfl, [], by simp, by simp [detectRuns]⟩

theorem Carries.setLiveBaud (s : State) (b : LiveBaud) : Carries 0 s (s.setLiveBaud b) :=
  ⟨rfl, rfl, rfl, rfl, rfl, rfl, rfl, rfl, [], by simp, by simp [detectRuns]⟩

theorem Carries.setPending (s : State) (xs : List Byte) : Carries 0 s (s.setPending xs) :=
  ⟨rfl, rfl, rfl, rfl, rfl, rfl, rfl, rfl, [], by simp, by simp [detectRuns]⟩

theorem Carries.setEnv (s : State) (e : Env) : Carries 0 s (s.setEnv e) :=
  ⟨rfl, rfl, rfl, rfl, rfl, rfl, rfl, rfl, [], by simp, by simp [detectRuns]⟩

/-- The errors transport operations raise (60_exceptions R261). -/
abbrev TransportErr (e : Err) : Prop := (∃ p, e = .transport p) ∨ ∃ op y, e = .invalidResponse op y

/-- What a piece of an operation started in `s` keeps: with at most `a` runs of DETECT's body when it goes on, and at most
`b` when it ends with an error or hangs; its errors are transport errors. -/
def RanCarries {α : Type} (a b : Nat) (s : State) (r : Ran α) : Prop :=
  match r with
  | .ok _ t => Carries a s t
  | .err e t => TransportErr e ∧ Carries b s t
  | .hung t => Carries b s t

theorem RanCarries.bind {α β : Type} {a b c : Nat} {s : State} {r : Ran α} {k : α → State → Ran β}
    (h : RanCarries a b s r) (hk : ∀ x t, r = .ok x t → RanCarries c (b - a) t (k x t)) (hab : a ≤ b) :
    RanCarries (a + c) b s (r.bind k) := by
  cases r with
  | ok x t =>
    have h' : Carries a s t := h
    have := hk x t rfl
    simp only [Ran.bind_ok]
    cases hkx : k x t <;> rw [hkx] at this <;> simp only [RanCarries] at this ⊢
    · exact h'.trans this
    · exact ⟨this.1, (h'.trans this.2).mono (by omega)⟩
    · exact (h'.trans this).mono (by omega)
  | err e t => exact h
  | hung t => exact h

theorem RanCarries.mono {α : Type} {a b a' b' : Nat} {s : State} {r : Ran α} (h : RanCarries a b s r) (ha : a ≤ a')
    (hb : b ≤ b') : RanCarries a' b' s r := by
  cases r with
  | ok x t => exact Carries.mono (show Carries a s t from h) ha
  | err e t => exact ⟨h.1, h.2.mono hb⟩
  | hung t => exact Carries.mono (show Carries b s t from h) hb

theorem RanCarries.from {α : Type} {a b : Nat} {s t : State} {r : Ran α} (h : Carries 0 s t) (hr : RanCarries a b t r) :
    RanCarries a b s r := by
  cases r with
  | ok x u => exact h.after (show Carries a t u from hr)
  | err e u => exact ⟨hr.1, h.after hr.2⟩
  | hung u => exact h.after (show Carries b t u from hr)

theorem txFlush_carries (s : State) : RanCarries 0 0 s (txFlush s) := by
  cases h : s.flushDraw 0
  · rw [txFlush_err h]
    exact ⟨.inl ⟨_, rfl⟩, (Carries.setEnv s _).after (Carries.record rfl)⟩
  · rw [txFlush_ok h]
    show Carries 0 s _
    exact ((Carries.setEnv s _).after (Carries.setPending _ [])).after (Carries.record rfl)

theorem txWrite_carries (xs : List Byte) (s : State) : RanCarries 0 0 s (txWrite xs s) := by
  have h (r : WriteResult) : Carries 0 s (s.usedWrite.record (.write xs r)) := by
    exact (Carries.setEnv s _).after (Carries.record rfl)
  unfold txWrite
  split
  · exact h _
  · exact ⟨.inl ⟨_, rfl⟩, h _⟩
  · exact ⟨.inl ⟨_, rfl⟩, h _⟩

theorem afterRead_carries (s : State) (n : Nat) : Carries 0 s (s.afterRead n) := by
  exact ((Carries.setEnv s _).after (Carries.setPending _ _)).after (Carries.record rfl)

theorem rxRead_carries (n : Nat) (s : State) : RanCarries 0 0 s (rxRead n s) := by
  unfold rxRead
  split
  · exact Carries.refl s
  · split
    · exact afterRead_carries s n
    · exact ⟨.inl ⟨_, rfl⟩, afterRead_carries s n⟩
    · exact ⟨.inl ⟨_, rfl⟩, afterRead_carries s n⟩
    · exact afterRead_carries s n

theorem lineControl_carries (event : Bool → Event) (s : State) (h : ∀ b, (event b).isSetLine = false) :
    RanCarries 0 0 s (lineControl event s) := by
  have k (b : Bool) : Carries 0 s (s.usedLine.record (event b)) := by
    exact (Carries.setEnv s _).after (Carries.record (h b))
  unfold lineControl
  split
  · exact k _
  · exact ⟨.inl ⟨_, rfl⟩, k _⟩

theorem setLine_carries (event : Bool → Event) (s : State) : RanCarries 1 1 s (lineControl event s) := by
  have k (b : Bool) : Carries 1 s (s.usedLine.record (event b)) := by
    exact (Carries.setEnv s _).after (Carries.record_setLine (event b))
  unfold lineControl
  split
  · exact k _
  · exact ⟨.inl ⟨_, rfl⟩, k _⟩

/-- DETECT's body runs once, and keeps every register but MODE and LIVE_BAUD. -/
theorem detectBody_carries (s : State) : RanCarries 1 1 s (detectBody s) := by
  unfold detectBody
  refine RanCarries.from (t := s.setMode .command) (Carries.setMode s _) ?_
  refine RanCarries.bind (c := 0) (setLine_carries _ _) (fun _ t _ => ?_) (by omega)
  refine RanCarries.bind (a := 0) (c := 0) (lineControl_carries _ _ fun _ => rfl) (fun _ t _ => ?_) (by omega)
  refine RanCarries.bind (a := 0) (c := 0) (RanCarries.from (Carries.setLiveBaud t _) (lineControl_carries _ _ fun _ => rfl))
    (fun _ t _ => ?_) (by omega)
  refine RanCarries.bind (a := 0) (c := 0) (RanCarries.from (Carries.record rfl) (txFlush_carries _))
    (fun _ t _ => ?_) (by omega)
  refine RanCarries.bind (a := 0) (c := 0) (txWrite_carries _ _) (fun _ t _ => ?_) (by omega)
  refine RanCarries.bind (a := 0) (c := 0) (RanCarries.from (Carries.record rfl) (txWrite_carries _ _))
    (fun _ t _ => ?_) (by omega)
  refine RanCarries.bind (a := 0) (c := 0) (rxRead_carries _ _) (fun _ t _ => ?_) (by omega)
  exact Carries.refl t

/-- Resync runs DETECT's body once, then the given error is raised, unless the recovery's own read hangs. -/
theorem resyncRaise_carries {α : Type} (e : Err) (he : TransportErr e) (s : State) :
    RanCarries 0 1 s (resyncRaise e s : Ran α) := by
  have h := detectBody_carries s
  unfold resyncRaise
  cases hd : detectBody s <;> rw [hd] at h
  · exact ⟨he, h⟩
  · exact ⟨he, h.2⟩
  · exact h

theorem recovered_carries {s : State} {r : Ran (List Byte)} (h : RanCarries 0 0 s r) : RanCarries 0 1 s (recovered r) := by
  cases r with
  | ok xs t => exact h
  | err e t => exact .from h.2 (resyncRaise_carries e h.1 t)
  | hung t => exact Carries.mono (show Carries 0 s t from h) (by omega)

/-- A transaction that goes on has run no recovery; one that ends has run at most one. -/
theorem transact_carries (m : Mode) (tx : List Byte) (n : Nat) (s : State) : RanCarries 0 1 s (transact m tx n s) := by
  unfold transact
  refine RanCarries.from (t := s.setMode m) (Carries.setMode s m) ?_
  refine RanCarries.bind (a := 0) (c := 0) ((txFlush_carries _).mono (by omega) (by omega)) (fun _ t _ => ?_) (by omega)
  refine RanCarries.bind (a := 0) (c := 0) ((txWrite_carries _ _).mono (by omega) (by omega)) (fun _ t _ => ?_) (by omega)
  exact recovered_carries (rxRead_carries n t)

theorem transactBytes_carries (m : Mode) (tx : List Byte) (n : Nat) (s : State) :
    RanCarries 0 1 s (transactBytes m tx n s) :=
  RanCarries.bind (a := 0) (c := 0) (transact_carries m tx n s) (fun _ t _ => Carries.refl t) (by omega)

theorem checkReset_carries (y : Byte) (s : State) : RanCarries 0 1 s (checkReset y s) := by
  unfold checkReset
  split
  · exact resyncRaise_carries _ (.inr ⟨_, _, rfl⟩) s
  · split
    · exact Carries.refl s
    · exact resyncRaise_carries _ (.inr ⟨_, _, rfl⟩) s

theorem checkEcho_carries (y : Byte) (s : State) : RanCarries 0 1 s (checkEcho y s) := by
  unfold checkEcho
  split
  · exact resyncRaise_carries _ (.inr ⟨_, _, rfl⟩) s
  · exact Carries.refl s

theorem resetBody_carries (s : State) : RanCarries 0 1 s (resetBody s) :=
  RanCarries.bind (a := 0) (c := 0) (transact_carries _ _ _ s) (fun _ t _ => checkReset_carries _ t) (by omega)

/-- A search that goes on has run no recovery; one that ends has run at most one (60_exceptions R268). -/
theorem searchBody_carries (t : Word) (last : Nat) (s : State) : RanCarries 0 1 s (searchBody t last s) := by
  unfold searchBody
  refine RanCarries.bind (a := 0) (c := 0) (resetBody_carries s) (fun _ u _ => ?_) (by omega)
  refine RanCarries.bind (a := 0) (c := 0) (transact_carries _ _ _ u) (fun _ u _ => ?_) (by omega)
  refine RanCarries.bind (a := 0) (c := 0) (checkEcho_carries _ u) (fun _ u _ => ?_) (by omega)
  exact Carries.refl u

end Sys2Proof.Machine
end

