-- ==== Sys2Proof/Laws/Operands.lean ====
section
/-! SUPPORT. What the decoder's operand readers, the address functions, the text form, the search frames and the
configuration tables give. -/

namespace Sys2Proof

open Sys2Proof.Machine

/-! ### Operands and the decoder -/

/-- A byte as a number is read back. -/
theorem byteOf_toNat (b : Byte) : byteOf (b.toNat : Int) = .ok b := by
  have := b.isLt
  simp only [byteOf]; rw [if_pos (by omega)]; simp

/-- A byte list as numbers is read back. -/
theorem bytesOf_map (bs : List Byte) : bytesOf (bs.map fun b => (b.toNat : Int)) = .ok bs := by
  induction bs with
  | nil => rfl
  | cons b bs ih => simp [bytesOf, byteOf_toNat, ih, Except.bind]

@[simp] theorem toBit_ofBit (b : Bool) : (Operand.ofBit b).toBit = .ok b := by cases b <;> rfl

@[simp] theorem toByte_ofByte (b : Byte) : (Operand.ofByte b).toByte = .ok b := byteOf_toNat b

@[simp] theorem toBytes_ofBytes (b : List Byte) : (Operand.ofBytes b).toBytes = .ok b := bytesOf_map b

@[simp] theorem toWord_ofWord (v : Word) : (Operand.ofWord v).toWord = .ok v := by
  have := v.isLt
  simp only [Operand.toWord, Operand.ofWord]; rw [if_pos (by omega)]; simp

@[simp] theorem toAddress_ofWord (v : Word) : (Operand.ofWord v).toAddress = .ok v := toWord_ofWord v

@[simp] theorem toNat_ofNat (n : Nat) : (Operand.ofNat n).toNat = .ok n := by
  simp [Operand.toNat, Operand.ofNat]

@[simp] theorem toRecord_ofRecord (p : CfgRecord) : (Operand.ofRecord p).toRecord = .ok p := by
  cases p; rename_i b; cases b <;> rfl

/-- Each selector value stands for its operation. -/
theorem selOf_code (k : Sel) : selOf k.code = some k := by cases k <;> decide +kernel

/-- A request whose operands are read, for a well-formed instruction. -/
theorem decode_requestOf (k : Sel) (ops : List Operand) (i : Instr) (h : readOps k ops = .ok i) (hw : i.wellFormed = true) :
   decode (requestOf k ops) = .ok i := by
  simp [decode, requestOf, selOf_code, h, inDomain, hw, Except.bind]

/-- A wire byte of a row, for a well-formed instruction. -/
theorem decode_send (b : Byte) (i : Instr) (h : readSend b = some i) (hw : i.wellFormed = true) : decode (.send b) = .ok i := by
  simp [decode, h, inDomain, hw]

/-- What passes the domain check is well-formed. -/
theorem inDomain_ok {e : DecodeError} {i j : Instr} (h : inDomain e i = .ok j) : i = j ∧ j.wellFormed = true := by
  unfold inDomain at h
  split at h
  · cases h; exact ⟨rfl, ‹_›⟩
  · cases h

/-- A reading that succeeds succeeds in each part. -/
theorem ok_of_bind_ok {α β ε : Type} {x : Except ε α} {k : α → Except ε β} {b : β} (h : x.bind k = .ok b) : ∃ a, x = .ok a ∧ k a = .ok b := by
  cases x with
  | ok a => exact ⟨a, rfl, h⟩
  | error e => cases h

end Sys2Proof

namespace Sys2Proof.Machine

/-! ### Addresses -/

/-- The byte form of a generated address. -/
theorem le8_addrOf (fam : Byte) (ser : List Byte) (h : ser.length = 6) : le8 (addrOf fam ser) = fam :: ser ++ [crc8 (fam :: ser)] := 
  le8_fromLE _ (by simp [h])

/-- The CRC field is the last byte. -/
theorem addrCrc_le8 (v : Word) : addrCrc v = (le8 v).getD 7 0#8 := (getD_leBytes 8 v 7 (by omega)).symm

/-- A generated address is valid. -/
theorem addrOf_valid (fam : Byte) (ser : List Byte) (h : ser.length = 6) : AddrValid (addrOf fam ser) := by
  unfold AddrValid
  rw [addrCrc_le8, le8_addrOf _ _ h]
  simp [h, List.getD_eq_getElem?_getD]

/-- What the validator accepts is valid and has that byte form. -/
theorem addrFromBytes_valid {xs : List Byte} {v : Word} (h : addrFromBytes xs = .ok v) : AddrValid v ∧ v = fromLE xs ∧ xs.length = 8 := by
  unfold addrFromBytes at h
  split at h
  · cases h
  · split at h
    · cases h
    · rename_i h1 h2
      have h1 : xs.length = 8 := by simpa using h1
      cases h
      refine ⟨?_, rfl, h1⟩
      have h2 : crc8 (xs.take 7) = xs.getD 7 0#8 := by simpa using h2
      rw [AddrValid, le8_fromLE _ h1, h2, addrCrc, ← getD_leBytes 8 _ 7 (by omega)]
      show (le8 (fromLE xs)).getD 7 0#8 = _
      rw [le8_fromLE _ h1]

/-- The validator on a value's own bytes (41_address R145). -/
theorem addrFromBytes_le8 (v : Word) : addrFromBytes (le8 v) = if AddrValid v then .ok v else .error (.crcMismatch (crc8 ((le8 v).take 7)) (addrCrc v)) := by
  unfold addrFromBytes
  rw [if_neg (by simp), ← addrCrc_le8]
  by_cases h : AddrValid v
  · have : crc8 ((le8 v).take 7) = addrCrc v := h.symm
    simp [this]
  · have : ¬ crc8 ((le8 v).take 7) = addrCrc v := fun e => h e.symm
    simp [h, this]

/-- A value is known by its bytes. -/
theorem le8_inj {v w : Word} (h : le8 v = le8 w) : v = w := by rw [← fromLE_le8 v, h, fromLE_le8]

/-! ### The text form -/

/-- A field without dots ends at the first dot. -/
theorem splitDots_dot (f cs : List Char) (h : ∀ c ∈ f, c ≠ '.') : splitDots (f ++ '.' :: cs) = f :: splitDots cs := by
  induction f with
  | nil => simp [splitDots]
  | cons c f ih =>
    have h0 := h c (by simp)
    simp only [List.cons_append, splitDots, h0, if_false, ih (fun d hd => h d (by simp [hd]))]

/-- A text without dots is one field. -/
theorem splitDots_nodot (f : List Char) (h : ∀ c ∈ f, c ≠ '.') : splitDots f = [f] := by
  induction f with
  | nil => rfl
  | cons c f ih =>
    have h0 := h c (by simp)
    simp only [splitDots, h0, if_false, ih (fun d hd => h d (by simp [hd]))]

/-- A rendered digit is read back. -/
theorem hexVal_hexDigit (k : Nat) (h : k < 16) : hexVal (hexDigit k) = some k := by
  have : ∀ k : Fin 16, hexVal (hexDigit k.1) = some k.1 := by decide +kernel
  exact this ⟨k, h⟩

/-- A rendered digit is neither a dot nor a dash. -/
theorem hexDigit_ne (k : Nat) (h : k < 16) : hexDigit k ≠ '.' ∧ hexDigit k ≠ '-' := by
  have : ∀ k : Fin 16, hexDigit k.1 ≠ '.' ∧ hexDigit k.1 ≠ '-' := by decide +kernel
  exact this ⟨k, h⟩

/-- The digits of rendered bytes. -/
theorem hexVals_flatMap_hexByte (bs : List Byte) : hexVals (bs.flatMap hexByte) = some (bs.flatMap fun b => [b.toNat / 16, b.toNat % 16]) := by
  induction bs with
  | nil => rfl
  | cons b bs ih =>
    have := b.isLt
    have e : (b :: bs).flatMap hexByte = hexDigit (b.toNat / 16) :: hexDigit (b.toNat % 16) :: bs.flatMap hexByte := rfl
    rw [e]
    simp [hexVals, hexVal_hexDigit (b.toNat / 16) (by omega), hexVal_hexDigit (b.toNat % 16) (by omega), ih]

/-- Pairs of digits make the bytes again. -/
theorem pairBytes_nibbles (bs : List Byte) : pairBytes (bs.flatMap fun b => [b.toNat / 16, b.toNat % 16]) = bs := by
  induction bs with
  | nil => rfl
  | cons b bs ih =>
    have : 16 * (b.toNat / 16) + b.toNat % 16 = b.toNat := by omega
    simp [pairBytes, ih, this]

/-- Two digits a byte. -/
theorem length_nibbles (bs : List Byte) : (bs.flatMap fun b => [b.toNat / 16, b.toNat % 16]).length = 2 * bs.length := by
  induction bs with
  | nil => rfl
  | cons b bs ih => simp at ih ⊢; omega

/-- A field of rendered bytes is read back. -/
theorem hexField_flatMap_hexByte (bs : List Byte) : hexField (bs.flatMap hexByte) = some bs := by
  unfold hexField
  rw [hexVals_flatMap_hexByte]
  dsimp only
  rw [if_neg (by rw [length_nibbles]; omega), pairBytes_nibbles]

/-- Rendered bytes hold no dot and no dash. -/
theorem flatMap_hexByte_ne (bs : List Byte) : ∀ c ∈ bs.flatMap hexByte, c ≠ '.' ∧ c ≠ '-' := by
  intro c hc
  rw [List.mem_flatMap] at hc
  obtain ⟨b, _, hb⟩ := hc
  have := b.isLt
  simp [hexByte] at hb
  rcases hb with rfl | rfl
  · exact hexDigit_ne _ (by omega)
  · exact hexDigit_ne _ (by omega)

/-- One rendered byte. -/
theorem hexByte_eq_flatMap (b : Byte) : hexByte b = [b].flatMap hexByte := by simp

/-- The three fields of a rendering. -/
theorem splitDots_render (v : Word) : splitDots (renderAddress v) = [hexByte (addrFamily v), (((le8 v).drop 1).take 6).flatMap hexByte, hexByte (addrCrc v)] := by
  unfold renderAddress
  rw [List.append_assoc, List.cons_append, splitDots_dot, splitDots_dot, splitDots_nodot]
  · intro c hc; rw [hexByte_eq_flatMap] at hc; exact (flatMap_hexByte_ne _ c hc).1
  · intro c hc; exact (flatMap_hexByte_ne _ c hc).1
  · intro c hc; rw [hexByte_eq_flatMap] at hc; exact (flatMap_hexByte_ne _ c hc).1

/-! ### Search frames -/

/-- Bit `k` of an encoded frame. -/
theorem frame_bit (v : EncVariant) (t : Word) (last k : Nat) (h : k < 128) : (fromLE16 (encodeSearch v t last)).getLsbD k = requestBit v t last k := by
  unfold encodeSearch
  rw [fromLE16_le16, getLsbD_ofBits]; simp [h]

/-- An encoded frame has sixteen bytes. -/
theorem length_encodeSearch (v : EncVariant) (t : Word) (last : Nat) : (encodeSearch v t last).length = 16 := by simp [encodeSearch]

/-- The r-bit of a lane under VECTOR (42_search_codec R161). -/
theorem requestBit_vector_r (t : Word) (last i : Nat) : requestBit .vector t last (2 * i + 1) = (decide (i ≤ last) && t.getLsbD i) := by
  simp [requestBit, show (2 * i + 1) % 2 = 1 by omega, show (2 * i + 1) / 2 = i by omega]

/-- The d-bit of a lane under VECTOR. -/
theorem requestBit_vector_d (t : Word) (last i : Nat) : requestBit .vector t last (2 * i) = (decide (last < 64) && decide (i = last)) := by
  simp [requestBit]

/-- The r-bit of a lane under PROSE (42_search_codec R162). -/
theorem requestBit_prose_r (t : Word) (last i : Nat) : requestBit .prose t last (2 * i + 1) = ((decide (i < last) && t.getLsbD i) || (decide (last < 64) && decide (i = last))) := by
  simp [requestBit, show (2 * i + 1) % 2 = 1 by omega, show (2 * i + 1) / 2 = i by omega]

/-- The d-bit of a lane under PROSE. -/
theorem requestBit_prose_d (t : Word) (last i : Nat) : requestBit .prose t last (2 * i) = false := by
  simp [requestBit]

/-- The first index below `n` with a property, or none. -/
theorem find?_range_spec (f : Nat → Bool) (n : Nat) : (∃ i, (List.range n).find? f = some i ∧ i < n ∧ f i = true ∧ ∀ j < i, f j = false) ∨
   ((List.range n).find? f = none ∧ ∀ i < n, f i = false) := by
  cases h : (List.range n).find? f with
  | none => right; rw [List.find?_eq_none] at h; exact ⟨rfl, fun i hi => by simpa using h i (by simpa using hi)⟩
  | some i =>
    left
    rw [List.find?_range_eq_some] at h
    exact ⟨i, rfl, by simpa using h.2.1, h.1, fun j hj => by simpa using h.2.2 j hj⟩

/-- What the one-shot decoder gives (42_search_codec R165). -/
theorem decodeSearch_spec (rs : List Byte) : (∀ i < 64, (decodeSearch rs).1.getLsbD i = (fromLE16 rs).getLsbD (2 * i + 1)) ∧
   (((decodeSearch rs).2 = 64 ∧ ∀ i < 64, laneOpen (fromLE16 rs) i = false) ∨
    ((decodeSearch rs).2 < 64 ∧ laneOpen (fromLE16 rs) (decodeSearch rs).2 = true ∧ ∀ i < (decodeSearch rs).2, laneOpen (fromLE16 rs) i = false)) := by
  constructor
  · intro i hi; rw [decodeSearch]; dsimp only; rw [getLsbD_ofBits]; simp [hi]
  · rcases find?_range_spec (laneOpen (fromLE16 rs)) 64 with ⟨i, h1, h2, h3, h4⟩ | ⟨h1, h2⟩
    · right; simp only [decodeSearch, h1, Option.getD_some]; exact ⟨h2, h3, h4⟩
    · left; simp only [decodeSearch, h1]; exact ⟨rfl, h2⟩

/-- A decoded position is at most 64. -/
theorem decodeSearch_le (rs : List Byte) : (decodeSearch rs).2 ≤ 64 := by
  simp only [decodeSearch]
  cases h : (List.range 64).find? (laneOpen (fromLE16 rs)) with
  | none => simp
  | some i =>
    have := List.mem_of_find?_eq_some h
    simp at this; simpa using this.le

/-! ### Configuration -/

/-- A record that passes the checks has a code in every field. -/
theorem cfgCode_some {p : CfgRecord} (h : firstIllegal p = none) (f : CfgField) : ∃ c, cfgCode f (cfgGet p f) = some c ∧ codeFor p f = c := by
  unfold firstIllegal at h
  rw [List.find?_eq_none] at h
  have hm : f ∈ cfgOrder := by cases f <;> decide
  have := h f hm
  unfold codeFor
  cases hc : cfgCode f (cfgGet p f) with
  | none => simp [hc] at this
  | some c => exact ⟨c, rfl, rfl⟩

/-- A code stands beside its value in the table. -/
theorem cfgCode_mem {f : CfgField} {v : CfgValue} {c : Nat} (h : cfgCode f v = some c) : (v, c) ∈ cfgTable f := by
  unfold cfgCode at h
  cases hf : (cfgTable f).find? (fun e => e.1 == v) with
  | none => simp [hf] at h
  | some e =>
    rw [hf] at h
    simp only [Option.map_some, Option.some.injEq] at h
    have h1 := List.mem_of_find?_eq_some hf
    have h2 := List.find?_some hf
    simp only [beq_iff_eq] at h2
    rw [← h2, ← h]; exact h1

/-- SPU_FOREVER_CODE is 6 or 7 (30_encoding R82). -/
theorem forever_cases : Config.spuForeverCode = 6#3 ∨ Config.spuForeverCode = 7#3 := by
  unfold Config.spuForeverCode; cases Config.spuForeverIsSeven <;> simp

/-- A value is in the legal set exactly when it has a code. -/
theorem mem_cfgLegal (f : CfgField) (v : CfgValue) : v ∈ cfgLegal f ↔ (cfgCode f v).isSome := by
  unfold cfgCode cfgLegal
  constructor
  · intro h
    rw [List.mem_map] at h
    obtain ⟨e, he, rfl⟩ := h
    simp only [Option.isSome_map, List.find?_isSome]
    exact ⟨e, he, by simp⟩
  · intro h
    simp only [Option.isSome_map, List.find?_isSome] at h
    obtain ⟨e, he, hv⟩ := h
    rw [List.mem_map]
    exact ⟨e, he, by simpa using hv⟩

/-- The code stored for a legal field. -/
theorem codeFor_spec {p : CfgRecord} {f : CfgField} (h : cfgGet p f ∈ cfgLegal f) : (cfgGet p f, codeFor p f) ∈ cfgTable f := by
  rw [mem_cfgLegal] at h
  obtain ⟨c, hc⟩ := Option.isSome_iff_exists.1 h
  have := cfgCode_mem hc
  unfold codeFor; rw [hc]; exact this

/-- A code is the position of its value. -/
theorem getElem?_of_mem_codesFrom0 {l : List CfgValue} {v : CfgValue} {c : Nat} (h : (v, c) ∈ codesFrom0 l) : l[c]? = some v := by
  unfold codesFrom0 at h
  have := List.mem_zipIdx h
  simp at this
  obtain ⟨h1, h2⟩ := this
  rw [h2]; simp [h1]

end Sys2Proof.Machine
end

