-- ==== Sys2Proof/Laws/Units.lean ====
section
/-! SUPPORT. The CRC step, the bit-serial parser's step and the sequencer's update: what each gives, and that the last two
keep their registers legal. -/

namespace Sys2Proof.Machine

/-! ### The CRC -/

/-- The byte step as a recursion over the bits left. -/
def crcShift : Nat → Byte → Byte → Byte
  | 0, c, _ => c
  | n + 1, c, x => crcShift n (crcBitStep c (x.getLsbD 0)) (x >>> 1)

/-- It is the byte step. -/
theorem crcShift_eq (c x : Byte) : crcByteStep c x = crcShift 8 c x := by
  simp [crcShift, crcByteStep, List.range, List.range.loop, ← BitVec.shiftRight_add]

/-- One bit step on differing registers and operands. -/
theorem crcBitStep_xor (c y : Byte) (b : Bool) : crcBitStep (c ^^^ y) (b ^^ y.getLsbD 0) = crcBitStep c b ^^^ (y >>> 1) := by
  unfold crcBitStep
  rw [BitVec.getLsbD_xor]
  cases c.getLsbD 0 <;> cases y.getLsbD 0 <;> cases b <;> simp [BitVec.ushiftRight_xor_distrib, BitVec.xor_assoc, BitVec.xor_comm]
  all_goals (rw [← BitVec.xor_assoc, BitVec.xor_comm (c >>> 1), BitVec.xor_assoc])

/-- The bit steps are linear. -/
theorem crcShift_xor (n : Nat) (c x y : Byte) : crcShift n (c ^^^ y) (x ^^^ y) = crcShift n c x ^^^ (y >>> n) := by
  induction n generalizing c x y with
  | zero => simp [crcShift]
  | succ n ih =>
    simp only [crcShift, BitVec.getLsbD_xor, crcBitStep_xor, BitVec.ushiftRight_xor_distrib, ih]
    rw [← BitVec.shiftRight_add, Nat.add_comm]

/-- A CRC_BYTE for each byte leaves the folded register and touches nothing else (30_encoding R116). -/
theorem forEachByte_crcByte (xs : List Byte) (s : State) : ∃ r, forEachByte execCrcByte xs s = .next { s with crcAcc := xs.foldl crcByteStep s.crcAcc, response := r } := by
  induction xs generalizing s with
  | nil => exact ⟨s.response, rfl⟩
  | cons x xs ih => exact ih _

/-! ### The parser -/

/-- PRS_IDX counts the bits (42_search_codec R170). -/
theorem feedBit_idx (p : Parser) (b : Bool) : (p.feedBit b).idx = p.idx + 1#8 := by
  unfold Parser.feedBit; split <;> rfl

/-- Bit 0 of PRS_IDX is its parity. -/
theorem getLsbD_zero_idx (i : BitVec 8) : i.getLsbD 0 = decide (i.toNat % 2 = 1) := by
  simp [BitVec.getLsbD, Nat.testBit_zero]

/-- The bits of a single set bit. -/
theorem getLsbD_one_shiftLeft (k i : Nat) (hk : k < 64) : (1#64 <<< k).getLsbD i = decide (i = k) := by
  simp [BitVec.getLsbD_shiftLeft]
  by_cases h : i = k
  · subst h; simp [hk]
  · simp only [h, decide_false]
    by_cases h2 : i < k
    · simp [h2]
    · have : ¬ (i - k = 0) := by omega
      simp [this]

/-- A bit keeps the parser legal. -/
theorem feedBit_legal {p : Parser} (h : p.Legal) (hi : p.idx ≠ 128#8) (b : Bool) : (p.feedBit b).Legal := by
  obtain ⟨h1, h2, h3⟩ := h
  have hlt : p.idx.toNat < 128 := by
    have : p.idx.toNat ≠ 128 := fun hh => hi (BitVec.eq_of_toNat_eq (by simpa using hh))
    omega
  have hadd : (p.idx + 1#8).toNat = p.idx.toNat + 1 := by
    rw [BitVec.toNat_add, BitVec.toNat_ofNat]; omega
  have hsh : (p.idx >>> 1).toNat = p.idx.toNat / 2 := by
    simp [BitVec.toNat_ushiftRight, Nat.shiftRight_eq_div_pow]
  unfold Parser.feedBit
  rw [getLsbD_zero_idx]
  split
  · rename_i he
    have he : p.idx.toNat % 2 = 0 := by simpa using he
    refine ⟨?_, ?_, ?_⟩
    · simp only [hadd]; omega
    · simp only [hadd]
      rcases h2 with h2 | ⟨h2, h4⟩
      · exact .inl h2
      · exact .inr ⟨by omega, h4⟩
    · intro i hi' hle
      simp only [hadd] at hle
      exact h3 i hi' (by omega)
  · rename_i he
    have he : p.idx.toNat % 2 = 1 := by simpa using he
    have hk : p.idx.toNat / 2 < 64 := by omega
    have hacc : ∀ i, (if b then p.acc ||| (1#64 <<< (p.idx >>> 1).toNat) else p.acc).getLsbD i =
        (p.acc.getLsbD i || (b && decide (i = p.idx.toNat / 2))) := by
      intro i
      cases b
      · simp
      · simp only [if_true, BitVec.getLsbD_or, hsh, getLsbD_one_shiftLeft _ _ hk]; simp
    have hset : ((p.idx >>> 1).setWidth 7).toNat = p.idx.toNat / 2 := by
      rw [BitVec.toNat_setWidth, hsh]; omega
    refine ⟨?_, ?_, ?_⟩
    · simp only [hadd]; omega
    · simp only [hadd, hacc]
      split
      · rename_i hc
        simp only [Bool.and_eq_true, Bool.not_eq_true', beq_iff_eq] at hc
        right
        refine ⟨by rw [hset]; omega, ?_⟩
        rw [hset, h3 _ hk (by omega), hc.1.2]; simp
      · rcases h2 with h2 | ⟨h2, h4⟩
        · exact .inl h2
        · refine .inr ⟨by omega, ?_⟩
          rw [h4]
          have : ¬ p.nxt.toNat = p.idx.toNat / 2 := by omega
          simp [this]
    · intro i hi' hle
      simp only [hadd] at hle
      simp only [hacc]
      rw [h3 i hi' (by omega)]
      have : ¬ i = p.idx.toNat / 2 := by omega
      simp [this]

/-- A byte is eight bits (42_search_codec R171). -/
theorem feedByte_eq (p : Parser) (x : Byte) : p.feedByte x =
  ((((((((p.feedBit (x.getLsbD 0)).feedBit (x.getLsbD 1)).feedBit (x.getLsbD 2)).feedBit (x.getLsbD 3)).feedBit (x.getLsbD 4)).feedBit (x.getLsbD 5)).feedBit (x.getLsbD 6)).feedBit (x.getLsbD 7)) := rfl

/-- PRS_IDX after a byte. -/
theorem feedByte_idx (p : Parser) (x : Byte) : (p.feedByte x).idx = p.idx + 8#8 := by
  simp only [feedByte_eq, feedBit_idx]; bv_omega

/-- Bits within the capacity keep the parser legal. -/
theorem feedBits_legal {p : Parser} (h : p.Legal) (bs : List Bool) (hi : p.idx.toNat + bs.length ≤ 128) :
    (bs.foldl Parser.feedBit p).Legal := by
  induction bs generalizing p with
  | nil => exact h
  | cons b bs ih =>
    simp only [List.length_cons] at hi
    refine ih (feedBit_legal h (by intro e; rw [e] at hi; simp at hi) b) ?_
    rw [feedBit_idx, BitVec.toNat_add]
    simp; omega

/-- A byte within the capacity keeps the parser legal. -/
theorem feedByte_legal {p : Parser} (h : p.Legal) (hi : ¬ p.idx > 120#8) (x : Byte) : (p.feedByte x).Legal := by
  have hlt : p.idx.toNat ≤ 120 := by bv_omega
  exact feedBits_legal h [x.getLsbD 0, x.getLsbD 1, x.getLsbD 2, x.getLsbD 3, x.getLsbD 4, x.getLsbD 5, x.getLsbD 6, x.getLsbD 7] (by simp; omega)

/-- The parser after PRS_CLR is legal. -/
theorem start_legal : Parser.start.Legal := by
  refine ⟨by decide, .inl rfl, fun i hi h => ?_⟩
  simp [Parser.start]

/-- A PRS_BYTE for each byte, within the capacity (42_search_codec R173). -/
theorem forEachByte_prsByte (rs : List Byte) (s : State) (h : s.prs.idx.toNat + 8 * rs.length ≤ 128) :
    ∃ r, forEachByte execPrsByte rs s = .next { s with prs := rs.foldl Parser.feedByte s.prs, response := r } := by
  induction rs generalizing s with
  | nil => exact ⟨s.response, rfl⟩
  | cons x xs ih =>
    simp only [List.length_cons] at h
    have hn : ¬ s.prs.idx > 120#8 := by bv_omega
    simp only [forEachByte, execPrsByte, hn, if_false, done, andThen]
    exact ih _ (by simp only [State.respond_prs, State.setPrs_prs, feedByte_idx]; rw [BitVec.toNat_add, BitVec.toNat_ofNat]; omega)

/-! ### The sequencer -/

/-- The cursor at the start of ENUMERATE is legal. -/
theorem cursor_start_legal : Cursor.start.Legal :=
  ⟨by decide, by decide, by decide, fun v hv => absurd hv (by simp [Cursor.start])⟩

/-- A turn of the loop keeps the cursor legal and counts itself (44_enumerate R240). -/
theorem after_legal {c : Cursor} (h : c.Legal) (hi : c.iter.toNat < 64) (t : Word) (p : Nat) (hp : p ≤ 64) : (c.after t p).Legal ∧ (c.after t p).iter.toNat = c.iter.toNat + 1 := by
  obtain ⟨h1, h2, h3, h4⟩ := h
  have hadd : (c.iter + 1#7).toNat = c.iter.toNat + 1 := by rw [BitVec.toNat_add, BitVec.toNat_ofNat]; omega
  refine ⟨⟨?_, ?_, ?_, ?_⟩, hadd⟩
  · simp only [Cursor.after, BitVec.toNat_ofNat]; omega
  · simp only [Cursor.after, hadd]; omega
  · simp only [Cursor.after, hadd]
    split
    · rw [List.length_append]; simp; omega
    · omega
  · simp only [Cursor.after]
    split
    · rename_i v hv
      intro w hw
      rcases List.mem_append.1 hw with hw | hw
      · exact h4 w hw
      · rw [List.mem_singleton.1 hw]; exact (addrFromBytes_valid hv).1
    · exact h4

/-! ### The session -/

/-- A CONFIGURE that succeeds stores legal codes. -/
theorem sessionOf_legal {p : CfgRecord} (h : firstIllegal p = none) : (sessionOf p).Legal := by
  obtain ⟨c1, h1, e1⟩ := cfgCode_some h .speed
  obtain ⟨c2, h2, e2⟩ := cfgCode_some h .spud
  obtain ⟨c3, h3, e3⟩ := cfgCode_some h .baud
  have m1 := cfgCode_mem h1
  have m2 := cfgCode_mem h2
  have m3 := cfgCode_mem h3
  refine ⟨?_, ?_, ?_⟩
  · simp [sessionOf, e1]
    simp [cfgTable, codesFrom0, List.zipIdx] at m1
    rcases m1 with m | m | m <;> rw [m.2] <;> decide
  · simp [sessionOf, e2]
    simp [cfgTable, codesFrom0, List.zipIdx] at m2
    rcases m2 with m | m | m | m | m | m | m
    all_goals rw [m.2]
    · left; decide
    · left; decide
    · left; decide
    · left; decide
    · left; decide
    · left; decide
    · right; simp
  · simp [sessionOf, e3]
    simp [cfgTable, codesFrom0, List.zipIdx] at m3
    rcases m3 with m | m | m | m <;> rw [m.2] <;> decide

end Sys2Proof.Machine
end

