-- ==== Sys2Proof/Laws/Transport.lean ====
section
/-! SUPPORT. What whole pieces of transport operations do: how an operation ends from how its body ends, an answered
transaction, DETECT's body and the recovery when the read does not hang, a reset and a search that are answered. -/

namespace Sys2Proof.Machine

/-! ### The end of an operation -/

/-- A configured operation whose body gives a result. -/
theorem configured_ok {r : State → Ran Result} {s t : State} {a : Result} (hc : s.cfgValid = true) (h : r s = .ok a t) : configured r s = .next (t.respond (.result a)) := by rw [configured_pos hc, h]; rfl

/-- A configured operation whose body raises an error. -/
theorem configured_err {r : State → Ran Result} {s t : State} {e : Err} (hc : s.cfgValid = true) (h : r s = .err e t) : configured r s = .next (t.respond (.error e)) := by rw [configured_pos hc, h]; rfl

/-- A configured operation whose body hangs. -/
theorem configured_hung {r : State → Ran Result} {s t : State} (hc : s.cfgValid = true) (h : r s = .hung t) : configured r s = .fault (.hung t) := by rw [configured_pos hc, h]; rfl

/-- What every end of a piece keeps. -/
theorem RanCarries.all {α : Type} {a b : Nat} (hab : a ≤ b) {s : State} {r : Ran α} (h : RanCarries a b s r) : RanAll (Carries b s) r := by
  cases r with
  | ok x t => exact Carries.mono (show Carries a s t from h) hab
  | err e t => exact h.2
  | hung t => exact h

/-- Naming the result changes nothing. -/
theorem RanCarries.map {α β : Type} {a b : Nat} {s : State} {r : Ran α} (h : RanCarries a b s r) (f : α → β) : RanCarries a b s (r.bind fun x t => .ok (f x) t) := by
  cases r <;> exact h

/-! ### Answered transactions -/

/-- Its events. -/
theorem exchanged_history {s : State} {m : Mode} {tx rx : List Byte} {n : Nat} (hr : Answered s n rx) :
   (s.exchanged m tx n).history = s.history ++ exchangeEvents (frameFor m tx s) n rx := by
  unfold State.exchanged exchangeEvents
  rcases hr with ⟨rfl, rfl⟩ | ⟨hn, hr⟩
  · simp [State.sent]
  · rw [if_neg hn, if_neg hn]
    have : readOutcome n (s.sent m tx).pending ((s.sent m tx).readDraw 0) = .bytes rx := by simpa [State.sent] using hr
    rw [State.afterRead, this]; simp [State.sent]

/-- What it keeps. -/
theorem exchanged_keeps (s : State) (m : Mode) (tx : List Byte) (n : Nat) :
    KeepsRegisters s (s.exchanged m tx n) ∧ (s.exchanged m tx n).mode = m ∧
      (s.exchanged m tx n).liveBaud = s.liveBaud := by
  unfold State.exchanged
  split <;> simp [KeepsRegisters, State.afterRead, State.sent]

/-- The answer is as long as asked. -/
theorem length_of_answered {s : State} {n : Nat} {rx : List Byte} (hr : Answered s n rx) : rx.length = n := by
  rcases hr with ⟨rfl, rfl⟩ | ⟨hn, hr⟩
  · rfl
  · exact length_of_readOutcome hr

/-- It uses one draw of each kind. -/
theorem exchanged_draws (s : State) (m : Mode) (tx : List Byte) (n : Nat) (hn : n ≠ 0) (k : Nat) : (s.exchanged m tx n).flushDraw k = s.flushDraw (k + 1) ∧ (s.exchanged m tx n).writeDraw k = s.writeDraw (k + 1) ∧ (s.exchanged m tx n).readDraw k = s.readDraw (k + 1) := by
  unfold State.exchanged
  rw [if_neg hn]
  refine ⟨by simp [State.afterRead, State.sent], by simp [State.afterRead, State.sent], by simp [State.afterRead, State.sent]⟩

/-! ### DETECT's body and the recovery -/

/-- The state at the read of DETECT's body, when every primitive before it succeeds (43_frame_mode R210). -/
def State.probed (s : State) : State :=
  let s := ((s.setMode .command).usedLine.record (.setLine 9600 Config.detectFraming true)).usedLine.record
    (.updateConfig true)
  let s := delay Config.tBreakSettle (((s.setLiveBaud (.code 0#2)).usedLine).record (.lineBreak true))
  let s := ((s.usedFlush.setPending []).record (.flush true)).usedWrite.record (.write [owResetByte s.cfg.speed] .ok)
  (delay Config.tResetSettle s).usedWrite.record (.write (probeFrame s.cfg) .ok)

/-- DETECT's body, up to its read (43_frame_mode R210). -/
theorem detectBody_reaches {s : State} (h : ReachesRead s 0 0) :
    detectBody s = (rxRead 5 s.probed).bind fun y t => .ok (presentOf t.cfg y) t := by
  obtain ⟨l0, l1, l2, f0, w0, w1⟩ := h
  unfold detectBody
  rw [lineControl_ok _ (by simpa using l0), Ran.bind_ok, lineControl_ok _ (by simpa using l1), Ran.bind_ok,
    lineControl_ok _ (by simpa using l2), Ran.bind_ok, txFlush_ok (by simpa [delay] using f0), Ran.bind_ok,
    txWrite_ok (by simpa [delay] using w0), Ran.bind_ok, txWrite_ok (by simpa [delay, probeFrame] using w1), Ran.bind_ok]
  rfl

/-- What the state at DETECT's read is. -/
theorem probed_facts (s : State) :
    s.probed.mode = .command ∧ s.probed.liveBaud = .code 0#2 ∧ s.probed.history = s.history ++ detectEvents s.cfg ∧
      s.probed.pending = [] ∧ s.probed.readDraw 0 = s.readDraw 0 ∧ KeepsRegisters s s.probed := by
  simp [State.probed, delay, detectEvents, KeepsRegisters]

/-- What DETECT's body leaves, however it ends (43_frame_mode R211). -/
structure DetectOut (s t : State) : Prop where
  keep : KeepsRegisters s t
  mode : t.mode = .command
  live : t.liveBaud = liveAfterDetect s
  hist : ∃ es, t.history = s.history ++ es ∧ detectRuns es = 1

/-- DETECT answers unless its read hangs (60_exceptions R264). -/
theorem detectAnswer_some {s : State} (h : NoHang s 0) : detectAnswer s ≠ none := by
  unfold detectAnswer
  repeat' split
  all_goals simp
  rename_i hh
  cases hd : s.readDraw 0 <;> rw [hd] at hh
  · simp only [readOutcome] at hh; split at hh <;> cases hh
  · cases hh
  · exact h hd

/-- DETECT's body answers by the first of its primitives that fails, and leaves the same registers however it ends
(43_frame_mode R210, R211). -/
theorem detectBody_answer (s : State) :
    match detectBody s with
    | .ok p t => detectAnswer s = some (.result (.present p)) ∧ DetectOut s t
    | .err e t => detectAnswer s = some (.error e) ∧ DetectOut s t
    | .hung t => detectAnswer s = none ∧ DetectOut s t := by
  have out (t : State) (k : KeepsRegisters s t ∧ t.mode = .command) (l : t.liveBaud = liveAfterDetect s)
      (h : ∃ es, t.history = s.history ++ es ∧ detectRuns es = 1) : DetectOut s t := ⟨k.1, k.2, l, h⟩
  -- the state a failed primitive leaves
  have failed {e : Err} {t : State} (h : detectBody s = .err e t) (ha : detectAnswer s = some (.error e)) (d : DetectOut s t) :
      match detectBody s with
      | .ok p t => detectAnswer s = some (.result (.present p)) ∧ DetectOut s t
      | .err e t => detectAnswer s = some (.error e) ∧ DetectOut s t
      | .hung t => detectAnswer s = none ∧ DetectOut s t := by rw [h]; exact ⟨ha, d⟩
  cases l0 : s.lineDraw 0
  · refine failed (by unfold detectBody; rw [lineControl_err _ (by simpa using l0)]; rfl) (by simp [detectAnswer, l0])
      (out _ (by simp [KeepsRegisters]) (by simp [liveAfterDetect, l0]) (by simp; rfl))
  cases l1 : s.lineDraw 1
  · refine failed (by
        unfold detectBody
        rw [lineControl_ok _ (by simpa using l0), Ran.bind_ok, lineControl_err _ (by simpa using l1)]
        rfl) (by simp [detectAnswer, l1])
      (out _ (by simp [KeepsRegisters]) (by simp [liveAfterDetect, l1]) (by simp; rfl))
  have live : liveAfterDetect s = .code 0#2 := by simp [liveAfterDetect, l0, l1]
  cases l2 : s.lineDraw 2
  · refine failed (by
        unfold detectBody
        rw [lineControl_ok _ (by simpa using l0), Ran.bind_ok, lineControl_ok _ (by simpa using l1), Ran.bind_ok,
          lineControl_err _ (by simpa using l2)]
        rfl) (by simp [detectAnswer, l2])
      (out _ (by simp [KeepsRegisters]) (by simp [live]) (by simp; rfl))
  cases f0 : s.flushDraw 0
  · refine failed (by
        unfold detectBody
        rw [lineControl_ok _ (by simpa using l0), Ran.bind_ok, lineControl_ok _ (by simpa using l1), Ran.bind_ok,
          lineControl_ok _ (by simpa using l2), Ran.bind_ok, txFlush_err (by simpa [delay] using f0)]
        rfl) (by simp [detectAnswer, l0, l1, l2, f0])
      (out _ (by simp [KeepsRegisters, delay]) (by simp [live, delay]) (by simp [delay]; rfl))
  by_cases w0 : writeOutcome 1 (s.writeDraw 0) = .ok
  swap
  · refine failed (by
        unfold detectBody
        rw [lineControl_ok _ (by simpa using l0), Ran.bind_ok, lineControl_ok _ (by simpa using l1), Ran.bind_ok,
          lineControl_ok _ (by simpa using l2), Ran.bind_ok, txFlush_ok (by simpa [delay] using f0), Ran.bind_ok,
          txWrite_err (by simpa [delay] using w0)]
        rfl) (by simp [detectAnswer, l0, l1, l2, f0, w0, delay])
      (out _ (by simp [KeepsRegisters, delay]) (by simp [live, delay]) (by simp [delay]; rfl))
  by_cases w1 : writeOutcome 5 (s.writeDraw 1) = .ok
  swap
  · refine failed (by
        unfold detectBody
        rw [lineControl_ok _ (by simpa using l0), Ran.bind_ok, lineControl_ok _ (by simpa using l1), Ran.bind_ok,
          lineControl_ok _ (by simpa using l2), Ran.bind_ok, txFlush_ok (by simpa [delay] using f0), Ran.bind_ok,
          txWrite_ok (by simpa [delay] using w0), Ran.bind_ok, txWrite_err (by simpa [delay, probeFrame] using w1)]
        rfl) (by simp [detectAnswer, l0, l1, l2, f0, w0, w1, delay, probeFrame])
      (out _ (by simp [KeepsRegisters, delay]) (by simp [live, delay]) (by simp [delay]; rfl))
  have hr : ReachesRead s 0 0 := ⟨l0, l1, l2, f0, w0, w1⟩
  obtain ⟨h1, h2, h3, h4, h5, h6⟩ := probed_facts s
  have d : DetectOut s (s.probed.afterRead 5) :=
    out _ ⟨h6, h1⟩ (h2.trans live.symm) ⟨detectEvents s.cfg ++ [.read 5 (readOutcome 5 [] (s.readDraw 0))], by
      show s.probed.history ++ _ = _
      rw [h3, h4, h5, List.append_assoc], rfl⟩
  rw [detectBody_reaches hr]
  simp only [detectAnswer, l0, l1, l2, f0, w0, w1]
  unfold rxRead
  rw [h4, h5]
  cases readOutcome 5 [] (s.readDraw 0) <;> exact ⟨rfl, d⟩

/-- DETECT's body, when its read does not hang, ends in a presence bit or an error (43_frame_mode R210, R211). -/
theorem detectBody_out (s : State) (h : NoHang s 0) :
    (∃ b t, detectBody s = .ok b t ∧ DetectOut s t) ∨ ∃ e t, detectBody s = .err e t ∧ DetectOut s t := by
  have ha := detectBody_answer s
  cases hb : detectBody s <;> rw [hb] at ha
  · exact .inl ⟨_, _, rfl, ha.2⟩
  · exact .inr ⟨_, _, rfl, ha.2⟩
  · exact absurd ha.1 (detectAnswer_some h)

/-- The recovery, when its read does not hang, raises the given error (60_exceptions R266). -/
theorem resyncRaise_out {α : Type} (e : Err) (s : State) (h : NoHang s 0) : ∃ t, (resyncRaise e s : Ran α) = .err e t ∧ DetectOut s t := by
  unfold resyncRaise
  rcases detectBody_out s h with ⟨b, t, h1, h2⟩ | ⟨p, t, h1, h2⟩ <;> rw [h1] <;> exact ⟨t, rfl, h2⟩

/-! ### A reset and a search that are answered -/

/-- A known version code (30_encoding R86). -/
theorem versionOf_code {y : Byte} {v : ChipVersion} (h : (y.extractLsb' 2 3).toNat = v.code) : versionOf y = some v := by
  unfold versionOf
  cases v
  · have : y.extractLsb' 2 3 = 2#3 := BitVec.eq_of_toNat_eq h
    rw [if_pos this]
  · have : y.extractLsb' 2 3 = 3#3 := BitVec.eq_of_toNat_eq h
    rw [this]; rfl

/-- A byte that fails the mask or the version test runs the recovery (43_frame_mode R213). -/
theorem checkReset_bad {y : Byte}
    (h : ¬(y &&& 0xC0#8 = 0xC0#8 ∧ ((y.extractLsb' 2 3).toNat = 2 ∨ (y.extractLsb' 2 3).toNat = 3))) (s : State) :
    checkReset y s = resyncRaise (.invalidResponse .reset y) s := by
  unfold checkReset
  split
  · rfl
  · rename_i h1
    have h1 : y &&& 0xC0#8 = 0xC0#8 := by simpa using h1
    have hv : versionOf y = none := by
      unfold versionOf
      split
      · rename_i h2; exact absurd ⟨h1, .inl (by rw [h2]; rfl)⟩ h
      · split
        · rename_i h2; exact absurd ⟨h1, .inr (by rw [h2]; rfl)⟩ h
        · rfl
    rw [hv]

/-- The reset frame has one byte, or two after a marker. -/
theorem length_resetFrame (s : State) : (frameFor .command [owResetByte s.cfg.speed] s).length = if s.mode = .command then 1 else 2 := by
  unfold frameFor; split <;> rfl

/-- RESET_BUS on a good answer (43_frame_mode R213). -/
theorem resetBody_ok {s : State} {y : Byte} {v : ChipVersion} (hs : Sends s 0 (if s.mode = .command then 1 else 2)) (hr : Delivers s 0 1 [y]) (h1 : y &&& 0xC0#8 = 0xC0#8) (h2 : (y.extractLsb' 2 3).toNat = v.code) :
    resetBody s = .ok (.reset v (y.extractLsb' 0 2)) (s.exchanged .command [owResetByte s.cfg.speed] 1) := by
  rw [resetBody, transact_ok (n := 1) (rx := [y]) (by rw [length_resetFrame]; exact hs) (.inr ⟨by omega, hr⟩), Ran.bind_ok]
  show checkReset y _ = _
  unfold checkReset
  rw [if_neg (by simp [h1]), versionOf_code h2]

/-- The search payload of a session. -/
def State.payload (s : State) (t : Word) (last : Nat) : List Byte := searchPayload s.cfg.speed (encodeSearch s.encVariant t last)

/-- It has 22 bytes (43_frame_mode R218). -/
theorem length_payload (s : State) (t : Word) (last : Nat) : (s.payload t last).length = 22 := by
  simp [State.payload, searchPayload, encodeSearch]

/-- The state after a search whose two transactions were answered. -/
def State.searched (s : State) (t : Word) (last : Nat) : State :=
  (s.exchanged .command [owResetByte s.cfg.speed] 1).exchanged .data (s.payload t last) 17

/-- SEARCH on a good reset goes on as the transaction of its payload (43_frame_mode R216). -/
theorem searchBody_ok_reset {s : State} {t : Word} {last : Nat} {y : Byte} {v : ChipVersion}
    (s0 : Sends s 0 (if s.mode = .command then 1 else 2)) (d0 : Delivers s 0 1 [y]) (h1 : y &&& 0xC0#8 = 0xC0#8)
    (h2 : (y.extractLsb' 2 3).toNat = v.code) :
    searchBody t last s =
      (transact .data (s.payload t last) 17 (s.exchanged .command [owResetByte s.cfg.speed] 1)).bind fun rx u =>
        (checkEcho (rx.getD 0 0#8) u).bind fun _ u => .ok (decodeSearch (rx.drop 1)) u := by
  rw [searchBody, resetBody_ok s0 d0 h1 h2, Ran.bind_ok]
  obtain ⟨⟨_, _, _, hcfg, _, henc, _⟩, -, -⟩ := exchanged_keeps s .command [owResetByte s.cfg.speed] 1
  rw [hcfg, henc]
  rfl

/-- The frame of SEARCH's own transaction (43_frame_mode R217, R218). -/
theorem frameFor_payload (s : State) (t : Word) (last : Nat) :
    frameFor .data (s.payload t last) (s.exchanged .command [owResetByte s.cfg.speed] 1) = marker .data :: s.payload t last ∧
      (marker .data :: s.payload t last).length = 23 := by
  obtain ⟨-, k2, -⟩ := exchanged_keeps s .command [owResetByte s.cfg.speed] 1
  exact ⟨by unfold frameFor; rw [if_neg (by rw [k2]; decide)], by rw [List.length_cons, length_payload]⟩

/-- SEARCH's own transaction is sent when the second flush and write succeed. -/
theorem sends_payload {s : State} (t : Word) (last : Nat) (h : Sends s 1 23) :
    Sends (s.exchanged .command [owResetByte s.cfg.speed] 1) 0
      (frameFor .data (s.payload t last) (s.exchanged .command [owResetByte s.cfg.speed] 1)).length := by
  obtain ⟨q1, q2, -⟩ := exchanged_draws s .command [owResetByte s.cfg.speed] 1 (by omega) 0
  obtain ⟨f1, f2⟩ := frameFor_payload s t last
  rw [f1, f2]
  exact ⟨q1.trans h.1, q2 ▸ h.2⟩

/-- SEARCH on a good reset, up to its echo check (43_frame_mode R216). -/
theorem searchBody_answered {s : State} {t : Word} {last : Nat} {y e : Byte} {v : ChipVersion} {rs : List Byte}
    (s0 : Sends s 0 (if s.mode = .command then 1 else 2)) (s1 : Sends s 1 23) (d0 : Delivers s 0 1 [y])
    (d1 : Delivers s 1 17 (e :: rs)) (h1 : y &&& 0xC0#8 = 0xC0#8) (h2 : (y.extractLsb' 2 3).toNat = v.code) :
    searchBody t last s = (checkEcho e (s.searched t last)).bind fun _ s => .ok (decodeSearch rs) s := by
  have q3 := (exchanged_draws s .command [owResetByte s.cfg.speed] 1 (by omega) 0).2.2
  rw [searchBody_ok_reset s0 d0 h1 h2,
    transact_ok (rx := e :: rs) (sends_payload t last s1) (.inr ⟨by omega, by rw [Delivers, q3]; exact d1⟩), Ran.bind_ok]
  rfl

/-- It uses two draws of each kind. -/
theorem State.searched_draws (s : State) (t : Word) (last k : Nat) : (s.searched t last).flushDraw k = s.flushDraw (k + 2) ∧ (s.searched t last).writeDraw k = s.writeDraw (k + 2) ∧ (s.searched t last).readDraw k = s.readDraw (k + 2) := by
  unfold State.searched
  obtain ⟨a1, a2, a3⟩ := exchanged_draws (s.exchanged .command [owResetByte s.cfg.speed] 1) .data (s.payload t last) 17 (by omega) k
  obtain ⟨b1, b2, b3⟩ := exchanged_draws s .command [owResetByte s.cfg.speed] 1 (by omega) (k + 1)
  exact ⟨a1.trans b1, a2.trans b2, a3.trans b3⟩

end Sys2Proof.Machine
end

