-- ==== Sys2Proof/Laws/Hang.lean ====
section
/-! SUPPORT. Hung reads (60_exceptions R264): a piece of an operation that goes on or raises an error has made no hung read,
and one that hangs has made one, as its last event; where DETECT's body and a transaction hang. -/

namespace Sys2Proof.Machine

/-! ### Histories without a hung read -/

theorem WentOn.refl (s : State) : WentOn s s := ⟨[], by simp, fun _ h => by simp at h⟩

theorem WentOn.trans {s t u : State} (h : WentOn s t) (k : WentOn t u) : WentOn s u := by
  obtain ⟨es, h1, h2⟩ := h
  obtain ⟨fs, h3, h4⟩ := k
  exact ⟨es ++ fs, by rw [h3, h1, List.append_assoc], fun n hn => (List.mem_append.1 hn).elim (h2 n) (h4 n)⟩

/-- A hung read after a history without one. -/
theorem WentOn.stop {s t u : State} (h : WentOn s t) (k : StoppedOnHang t u) : StoppedOnHang s u := by
  obtain ⟨es, h1, h2⟩ := h
  obtain ⟨fs, n, h3, h4⟩ := k
  exact ⟨es ++ fs, n, by rw [h3, h1, List.append_assoc s.history], fun n hn => (List.mem_append.1 hn).elim (h2 n) (h4 n)⟩

/-- One event that is no hung read. -/
theorem WentOn.one {s t : State} {e : Event} (h : t.history = s.history ++ [e]) (he : ∀ n, e ≠ .read n .hang) : WentOn s t :=
  ⟨[e], h, fun n hn => he n (List.mem_singleton.1 hn).symm⟩

/-- A change of the state that records nothing. -/
theorem WentOn.same {s t : State} (h : t.history = s.history) : WentOn s t := ⟨[], by simp [h], fun _ hn => by simp at hn⟩

/-- What a piece of an operation says of hung reads, by how it ended. -/
def RanStops {α : Type} (s : State) (r : Ran α) : Prop :=
  match r with
  | .ok _ t => WentOn s t
  | .err _ t => WentOn s t
  | .hung t => StoppedOnHang s t

theorem RanStops.from {α : Type} {s t : State} {r : Ran α} (h : WentOn s t) (hr : RanStops t r) : RanStops s r := by
  cases r with
  | ok x u => exact WentOn.trans h hr
  | err e u => exact WentOn.trans h hr
  | hung u => exact WentOn.stop h hr

theorem RanStops.bind {α β : Type} {s : State} {r : Ran α} {k : α → State → Ran β} (h : RanStops s r)
    (hk : ∀ x t, RanStops t (k x t)) : RanStops s (r.bind k) := by
  cases r with
  | ok x t => exact .from h (hk x t)
  | err e t => exact h
  | hung t => exact h

/-! ### The operations -/

theorem txFlush_stops (s : State) : RanStops s (txFlush s) := by
  unfold txFlush
  split <;> exact WentOn.one rfl fun _ h => by cases h

theorem txWrite_stops (xs : List Byte) (s : State) : RanStops s (txWrite xs s) := by
  unfold txWrite
  split <;> exact WentOn.one rfl fun _ h => by cases h

theorem rxRead_stops (n : Nat) (s : State) : RanStops s (rxRead n s) := by
  unfold rxRead
  split
  · exact WentOn.refl s
  · split <;> rename_i h
    · exact WentOn.one rfl fun _ k => by rw [h] at k; cases k
    · exact WentOn.one rfl fun _ k => by rw [h] at k; cases k
    · exact WentOn.one rfl fun _ k => by rw [h] at k; cases k
    · refine ⟨[], n, ?_, fun _ hn => by simp at hn⟩
      show s.history ++ [.read n (readOutcome n s.pending (s.readDraw 0))] = _
      rw [h, List.append_nil]

theorem lineControl_stops (event : Bool → Event) (s : State) (h : ∀ b n, event b ≠ .read n .hang) :
    RanStops s (lineControl event s) := by
  unfold lineControl
  split <;> exact WentOn.one rfl (h _)

theorem delay_wentOn (t : Nat) (s : State) : WentOn s (delay t s) := WentOn.one rfl fun _ h => by cases h

theorem detectBody_stops (s : State) : RanStops s (detectBody s) := by
  unfold detectBody
  refine .from (t := s.setMode .command) (.same rfl) ?_
  refine (lineControl_stops _ _ fun _ _ h => by cases h).bind fun _ t => ?_
  refine (lineControl_stops _ _ fun _ _ h => by cases h).bind fun _ t => ?_
  refine .from (t := t.setLiveBaud (.code 0#2)) (.same rfl) ?_
  refine (lineControl_stops _ _ fun _ _ h => by cases h).bind fun _ t => ?_
  refine .from (delay_wentOn Config.tBreakSettle t) ?_
  refine (txFlush_stops _).bind fun _ t => (txWrite_stops _ _).bind fun _ t => ?_
  refine .from (delay_wentOn Config.tResetSettle t) ?_
  exact (txWrite_stops _ _).bind fun _ t => (rxRead_stops _ _).bind fun _ t => WentOn.refl t

theorem resyncRaise_stops {α : Type} (e : Err) (s : State) : RanStops s (resyncRaise e s : Ran α) := by
  have h := detectBody_stops s
  unfold resyncRaise
  cases hd : detectBody s <;> rw [hd] at h <;> exact h

theorem recovered_stops {s : State} {r : Ran (List Byte)} (h : RanStops s r) : RanStops s (recovered r) := by
  cases r with
  | ok xs t => exact h
  | err e t => exact .from h (resyncRaise_stops e t)
  | hung t => exact h

theorem transact_stops (m : Mode) (tx : List Byte) (n : Nat) (s : State) : RanStops s (transact m tx n s) := by
  unfold transact
  refine .from (t := s.setMode m) (.same rfl) ?_
  exact (txFlush_stops _).bind fun _ t => (txWrite_stops _ _).bind fun _ t => recovered_stops (rxRead_stops n t)

theorem transactBytes_stops (m : Mode) (tx : List Byte) (n : Nat) (s : State) : RanStops s (transactBytes m tx n s) :=
  (transact_stops m tx n s).bind fun _ t => WentOn.refl t

theorem checkReset_stops (y : Byte) (s : State) : RanStops s (checkReset y s) := by
  unfold checkReset
  split
  · exact resyncRaise_stops _ s
  · split
    · exact WentOn.refl s
    · exact resyncRaise_stops _ s

theorem checkEcho_stops (y : Byte) (s : State) : RanStops s (checkEcho y s) := by
  unfold checkEcho
  split
  · exact resyncRaise_stops _ s
  · exact WentOn.refl s

theorem resetBody_stops (s : State) : RanStops s (resetBody s) :=
  (transact_stops _ _ _ s).bind fun _ t => checkReset_stops _ t

theorem searchBody_stops (t : Word) (last : Nat) (s : State) : RanStops s (searchBody t last s) :=
  (resetBody_stops s).bind fun _ u => (transact_stops _ _ _ u).bind fun _ u =>
    (checkEcho_stops _ u).bind fun _ u => WentOn.refl u

theorem enumLoop_stops (fuel : Nat) (s : State) : RanStops s (enumLoop fuel s) := by
  induction fuel generalizing s with
  | zero => exact WentOn.refl s
  | succ fuel ih =>
    have h := searchBody_stops s.enum.tree s.enum.pos.toNat s
    unfold enumLoop
    cases hb : searchBody s.enum.tree s.enum.pos.toNat s with
    | ok r t =>
      rw [hb] at h
      have h' : WentOn s (t.setEnum (t.enum.after r.1 r.2)) := WentOn.trans h (.same rfl)
      simp only
      split
      · exact h'
      · exact .from h' (ih _)
    | err e t => rw [hb] at h; exact h
    | hung t => rw [hb] at h; exact h

/-- A configured operation that completes has made no hung read, and one that stops has made one, last of all. -/
theorem configured_stops {r : State → Ran Result} {s : State} (h : RanStops s (r s)) :
    (∀ t, configured r s = .next t → WentOn s t) ∧ ∀ t, configured r s = .fault (.hung t) → StoppedOnHang s t := by
  constructor
  · intro t ht
    rcases (configured_next ht).2 with ⟨a, u, hr, rfl⟩ | ⟨e, u, hr, rfl⟩ <;> rw [hr] at h <;> exact WentOn.trans h (.same rfl)
  · intro t ht
    obtain ⟨-, u, hr, hu⟩ := configured_fault ht
    cases hu
    rw [hr] at h
    exact h

/-! ### Where a read hangs -/

/-- DETECT's body, and so the recovery, hangs in its read. -/
theorem detectBody_hang {s : State} (h : ReachesRead s 0 0) (hd : s.readDraw 0 = .hang) :
    detectBody s = .hung (s.probed.afterRead 5) := by
  obtain ⟨-, -, -, hp, hr, -⟩ := probed_facts s
  rw [detectBody_reaches h, rxRead_hang (by omega) (by rw [hp, hr, hd]; rfl)]
  rfl

/-- What the stuck state of DETECT's body is. -/
theorem detectBody_stuck {s : State} (hd : s.readDraw 0 = .hang) :
    StuckAt s .command (.code 0#2) (detectEvents s.cfg) 5 (.fault (.hung (s.probed.afterRead 5))) := by
  obtain ⟨h1, h2, h3, h4, h5, h6⟩ := probed_facts s
  refine ⟨_, rfl, h1, h2, ?_, h6⟩
  show s.probed.history ++ [.read 5 (readOutcome 5 s.probed.pending (s.probed.readDraw 0))] = _
  rw [h3, h4, h5, hd]
  rfl

/-- The recovery hangs where DETECT's body does. -/
theorem resyncRaise_hang {α : Type} {e : Err} {s : State} (h : ReachesRead s 0 0) (hd : s.readDraw 0 = .hang) :
    (resyncRaise e s : Ran α) = .hung (s.probed.afterRead 5) := by
  unfold resyncRaise
  rw [detectBody_hang h hd]

/-- A stuck state that comes from a state that came from `s`. -/
theorem StuckAt.after {s u : State} {m : Mode} {b : LiveBaud} {es fs : List Event} {n : Nat}
    {o : Host.Outcome State Fault Refusal} (h : StuckAt u m b fs n o) (hu : u.history = s.history ++ es)
    (k : KeepsRegisters s u) : StuckAt s m b (es ++ fs) n o := by
  obtain ⟨t, h1, h2, h3, h4, a1, a2, a3, a4, a5, a6, a7⟩ := h
  obtain ⟨b1, b2, b3, b4, b5, b6, b7⟩ := k
  exact ⟨t, h1, h2, h3, by rw [h4, hu, List.append_assoc s.history], a1.trans b1, a2.trans b2, a3.trans b3, a4.trans b4,
    a5.trans b5, a6.trans b6, a7.trans b7⟩

/-- A transaction hangs in its read. -/
theorem transact_hang {m : Mode} {tx : List Byte} {n : Nat} {s : State} (hs : Sends s 0 (frameFor m tx s).length)
    (hn : n ≠ 0) (hd : s.readDraw 0 = .hang) : transact m tx n s = .hung ((s.sent m tx).afterRead n) := by
  have h1 : txFlush (s.setMode m) = .ok () (((s.setMode m).usedFlush.setPending []).record (.flush true)) :=
    txFlush_ok (by simpa using hs.1)
  have h2 : txWrite (frameFor m tx s) (((s.setMode m).usedFlush.setPending []).record (.flush true)) =
      .ok () (s.sent m tx) := txWrite_ok (by simpa using hs.2)
  rw [transact, h1, Ran.bind_ok, h2, Ran.bind_ok, rxRead_hang hn (by simp [State.sent, hd, readOutcome])]
  rfl

/-- What the stuck state of a transaction is. -/
theorem transact_stuck {m : Mode} {tx : List Byte} {n : Nat} {s : State} (hd : s.readDraw 0 = .hang) :
    StuckAt s m s.liveBaud [.flush true, .write (frameFor m tx s) .ok] n (.fault (.hung ((s.sent m tx).afterRead n))) := by
  refine ⟨_, rfl, rfl, rfl, ?_, by simp [KeepsRegisters, State.afterRead, State.sent]⟩
  have : readOutcome n (s.sent m tx).pending ((s.sent m tx).readDraw 0) = .hang := by simp [State.sent, hd, readOutcome]
  rw [State.afterRead, this]
  simp [State.sent]

end Sys2Proof.Machine
end

