-- ==== Sys2Proof/Laws/PerInstr.lean ====
section
/-! SUPPORT. What holds of each instruction as syntax, one lemma for each constructor: the family TableMatch says that the
instruction's encoding matches its row of the opcode table. -/

namespace Sys2Proof.Laws.TableMatch

open Sys2Proof Sys2Proof.Machine

-- one lemma after the other: each waits for the kernel, and a thread for each would take too much memory
set_option Elab.async false

/-- The byte of an item that its row of the opcode table describes; none for a pseudo-operation, which has no byte, and for
a response byte, which the chip sends and the block accepts whatever it is (30_encoding R95). -/
def firstByte : Item → Option Byte
  | .request r => some r.sel
  | .pseudo _ _ => none
  | .send b => some b
  | .receive _ _ => none

/-- The fixed bits of each row: match and mask, as spec/opcode_table.json gives them; none for the rows that have no byte of
the block's own. -/
def row : Instr → Option (Byte × Byte)
  | .markData => some (0xE1#8, 0xFF#8)
  | .markCommand => some (0xE3#8, 0xFF#8)
  | .owReset _ => some (0xC1#8, 0xF3#8)
  | .srchAccOn _ => some (0xB1#8, 0xF3#8)
  | .srchAccOff _ => some (0xA1#8, 0xF3#8)
  | .bitWrite _ => some (0x81#8, 0xF3#8)
  | .searchRom => some (0xF0#8, 0xFF#8)
  | .cfgRead _ => some (0x01#8, 0xF1#8)
  | .cfgWriteSlew _ => some (0x11#8, 0xF1#8)
  | .cfgWritePdur _ => some (0x21#8, 0xF1#8)
  | .cfgWriteSpud _ => some (0x31#8, 0xF1#8)
  | .cfgWriteW1lt _ => some (0x41#8, 0xF1#8)
  | .cfgWriteW0rt _ => some (0x51#8, 0xF1#8)
  | .cfgWriteLoad _ => some (0x61#8, 0xF1#8)
  | .cfgWriteBaud _ => some (0x71#8, 0xF1#8)
  | .resetResponse _ => none
  | .searchEcho _ => none
  | .bitWriteEcho _ => none
  | .crcClr => some (0x10#8, 0xFF#8)
  | .crcBit _ => some (0x11#8, 0xFF#8)
  | .crcByte _ => some (0x12#8, 0xFF#8)
  | .crcRead => some (0x13#8, 0xFF#8)
  | .crcSeq _ => some (0x14#8, 0xFF#8)
  | .crcSeqr _ => some (0x15#8, 0xFF#8)
  | .addrMake _ _ => some (0x20#8, 0xFF#8)
  | .addrFromBytes _ => some (0x21#8, 0xFF#8)
  | .addrFromSearch _ => some (0x22#8, 0xFF#8)
  | .addrToBytes _ => some (0x23#8, 0xFF#8)
  | .addrFields _ => some (0x24#8, 0xFF#8)
  | .encSearch _ _ => some (0x30#8, 0xFF#8)
  | .decSearch _ => some (0x31#8, 0xFF#8)
  | .prsClr => some (0x32#8, 0xFF#8)
  | .prsBit _ => some (0x33#8, 0xFF#8)
  | .prsByte _ => some (0x34#8, 0xFF#8)
  | .prsRead => some (0x35#8, 0xFF#8)
  | .configure _ => some (0x40#8, 0xFF#8)
  | .xact _ _ _ => some (0x41#8, 0xFF#8)
  | .detect => some (0x42#8, 0xFF#8)
  | .resetBus => some (0x43#8, 0xFF#8)
  | .search _ _ => some (0x44#8, 0xFF#8)
  | .txrx _ _ => some (0x45#8, 0xFF#8)
  | .enumerate => some (0x50#8, 0xFF#8)
  | .addrParse _ => none
  | .addrRender _ => none
  | .crcStream _ => none
  | .prsStream _ => none

/-- The byte an instruction encodes to has the fixed bits of its row, and a row without a byte of the block's own encodes to
none. -/
def Statement (i : Instr) : Prop := (firstByte (encode i)).map (fun b => b &&& ((row i).map (·.2)).getD 0x00#8) = (row i).map (·.1)

theorem markData : Statement .markData := rfl

theorem markCommand : Statement .markCommand := rfl

theorem owReset (speed : BitVec 2) : Statement (.owReset speed) := by unfold Statement; revert speed; decide +kernel

theorem srchAccOn (speed : BitVec 2) : Statement (.srchAccOn speed) := by unfold Statement; revert speed; decide +kernel

theorem srchAccOff (speed : BitVec 2) : Statement (.srchAccOff speed) := by unfold Statement; revert speed; decide +kernel

theorem bitWrite (speed : BitVec 2) : Statement (.bitWrite speed) := by unfold Statement; revert speed; decide +kernel

theorem searchRom : Statement .searchRom := rfl

theorem cfgRead (param : BitVec 3) : Statement (.cfgRead param) := by unfold Statement; revert param; decide +kernel

theorem cfgWriteSlew (code : BitVec 3) : Statement (.cfgWriteSlew code) := by unfold Statement; revert code; decide +kernel

theorem cfgWritePdur (code : BitVec 3) : Statement (.cfgWritePdur code) := by unfold Statement; revert code; decide +kernel

theorem cfgWriteSpud (code : BitVec 3) : Statement (.cfgWriteSpud code) := by unfold Statement; revert code; decide +kernel

theorem cfgWriteW1lt (code : BitVec 3) : Statement (.cfgWriteW1lt code) := by unfold Statement; revert code; decide +kernel

theorem cfgWriteW0rt (code : BitVec 3) : Statement (.cfgWriteW0rt code) := by unfold Statement; revert code; decide +kernel

theorem cfgWriteLoad (code : BitVec 3) : Statement (.cfgWriteLoad code) := by unfold Statement; revert code; decide +kernel

theorem cfgWriteBaud (code : BitVec 3) : Statement (.cfgWriteBaud code) := by unfold Statement; revert code; decide +kernel

theorem resetResponse (y : Byte) : Statement (.resetResponse y) := rfl

theorem searchEcho (y : Byte) : Statement (.searchEcho y) := rfl

theorem bitWriteEcho (y : Byte) : Statement (.bitWriteEcho y) := rfl

theorem crcClr : Statement .crcClr := by
  simp [Statement, firstByte, encode, requestOf, row, Sel.code]

theorem crcBit (b : Bool) : Statement (.crcBit b) := by
  simp [Statement, firstByte, encode, requestOf, row, Sel.code]

theorem crcByte (x : Byte) : Statement (.crcByte x) := by
  simp [Statement, firstByte, encode, requestOf, row, Sel.code]

theorem crcRead : Statement .crcRead := by
  simp [Statement, firstByte, encode, requestOf, row, Sel.code]

theorem crcSeq (xs : List Byte) : Statement (.crcSeq xs) := by
  simp [Statement, firstByte, encode, requestOf, row, Sel.code]

theorem crcSeqr (xs : List Byte) : Statement (.crcSeqr xs) := by
  simp [Statement, firstByte, encode, requestOf, row, Sel.code]

theorem addrMake (fam : Byte) (ser : List Byte) : Statement (.addrMake fam ser) := by
  simp [Statement, firstByte, encode, requestOf, row, Sel.code]

theorem addrFromBytes (xs : List Byte) : Statement (.addrFromBytes xs) := by
  simp [Statement, firstByte, encode, requestOf, row, Sel.code]

theorem addrFromSearch (acc : Word) : Statement (.addrFromSearch acc) := by
  simp [Statement, firstByte, encode, requestOf, row, Sel.code]

theorem addrToBytes (v : Word) : Statement (.addrToBytes v) := by
  simp [Statement, firstByte, encode, requestOf, row, Sel.code]

theorem addrFields (v : Word) : Statement (.addrFields v) := by
  simp [Statement, firstByte, encode, requestOf, row, Sel.code]

theorem encSearch (t : Word) (last : Nat) : Statement (.encSearch t last) := by
  simp [Statement, firstByte, encode, requestOf, row, Sel.code]

theorem decSearch (rs : List Byte) : Statement (.decSearch rs) := by
  simp [Statement, firstByte, encode, requestOf, row, Sel.code]

theorem prsClr : Statement .prsClr := by
  simp [Statement, firstByte, encode, requestOf, row, Sel.code]

theorem prsBit (b : Bool) : Statement (.prsBit b) := by
  simp [Statement, firstByte, encode, requestOf, row, Sel.code]

theorem prsByte (x : Byte) : Statement (.prsByte x) := by
  simp [Statement, firstByte, encode, requestOf, row, Sel.code]

theorem prsRead : Statement .prsRead := by
  simp [Statement, firstByte, encode, requestOf, row, Sel.code]

theorem configure (p : CfgRecord) : Statement (.configure p) := by
  simp [Statement, firstByte, encode, requestOf, row, Sel.code]

theorem xact (m : Mode) (tx : List Byte) (n : Nat) : Statement (.xact m tx n) := by
  simp [Statement, firstByte, encode, requestOf, row, Sel.code]

theorem detect : Statement .detect := by
  simp [Statement, firstByte, encode, requestOf, row, Sel.code]

theorem resetBus : Statement .resetBus := by
  simp [Statement, firstByte, encode, requestOf, row, Sel.code]

theorem search (t : Word) (last : Nat) : Statement (.search t last) := by
  simp [Statement, firstByte, encode, requestOf, row, Sel.code]

theorem txrx (tx : List Byte) (n : Nat) : Statement (.txrx tx n) := by
  simp [Statement, firstByte, encode, requestOf, row, Sel.code]

theorem enumerate : Statement .enumerate := by
  simp [Statement, firstByte, encode, requestOf, row, Sel.code]

theorem addrParse (cs : List Char) : Statement (.addrParse cs) := rfl

theorem addrRender (v : Word) : Statement (.addrRender v) := rfl

theorem crcStream (xs : List Byte) : Statement (.crcStream xs) := rfl

theorem prsStream (rs : List Byte) : Statement (.prsStream rs) := rfl

end Sys2Proof.Laws.TableMatch
end

