-- ==== Sys2Proof/Tests/Slice0.lean ====
section
/-! SUPPORT. Tests of single definitions and single steps, their expected results taken from the spec's encodings, examples
and test vectors, and a witness for the hypotheses of each statement. -/

namespace Sys2Proof.Tests

open Sys2Proof Sys2Proof.Machine

-- one test after the other: each waits for the kernel, and a thread for each would take too much memory
set_option Elab.async false

/-! ### Helpers -/

/-- What a decoded item is, if it decodes. -/
def read (item : Item) : Option Instr := (decode item).toOption

/-- A configured state in mode `m` with session `c`, whose flushes, writes and line-control primitives succeed and whose
reads draw `reads`. -/
def lab (m : Mode) (c : Session) (reads : List ReadDraw) : State :=
  { State.reset with
    mode := m
    cfgValid := true
    cfg := c
    env :=
      { flushes := { script := List.replicate 6 true, beyond := 0 }
        writes := { script := List.replicate 6 .full, beyond := 0 }
        reads := { script := reads, beyond := 0 }
        lines := { script := List.replicate 6 true, beyond := 0 } } }

/-- A configured state in mode `m`, every code 0, with the given draws. -/
def drawing (m : Mode) (flushes : List Bool) (writes : List WriteDraw) (reads : List ReadDraw) (lines : List Bool) : State :=
  { State.reset with
    mode := m
    cfgValid := true
    cfg := zeroCodes
    env :=
      { flushes := { script := flushes, beyond := 0 }, writes := { script := writes, beyond := 0 },
        reads := { script := reads, beyond := 0 }, lines := { script := lines, beyond := 0 } } }

/-- A session with speed code `speed` and the codes DETECT uses. -/
def session (speed : BitVec 2) (slew w1lt w0rt baud : BitVec 3) : Session :=
  { zeroCodes with speed := speed, slew := slew, w1lt := w1lt, w0rt := w0rt, baud := baud }

/-- The response of an outcome. -/
def reply : Host.Outcome State Fault Refusal → Option Response
  | .next s => s.response
  | _ => none

/-- The state of an outcome, next or stuck. -/
def after : Host.Outcome State Fault Refusal → Option State
  | .next s => some s
  | .fault (.hung s) => some s
  | _ => none

/-- The bytes written and MODE after an outcome. -/
def sentAndMode (o : Host.Outcome State Fault Refusal) : Option (List Byte × Mode) :=
  (after o).map fun s => (outStream s.history, s.mode)

/-- The refusal of an outcome. -/
def refusal : Host.Outcome State Fault Refusal → Option Refusal
  | .refused r => some r
  | _ => none

/-- Whether the outcome is a hung read. -/
def stuck : Host.Outcome State Fault Refusal → Bool
  | .fault (.hung _) => true
  | _ => false

/-- The address of the source's first example (95_test_vectors S5). -/
def sampleAddr : Word := 0xE700080336074510#64

/-- The response frame R1 of 95_test_vectors V-DEC-12. -/
def frameR1 : List Byte :=
  [0x10#8, 0x02#8, 0x26#8, 0x20#8, 0x2A#8, 0x00#8, 0x28#8, 0x0A#8, 0x0A#8, 0x00#8, 0x81#8, 0x00#8, 0x00#8, 0x00#8, 0x2A#8,
    0xA8#8]

/-- The record of V-CFG-2. -/
def lastValues : CfgRecord :=
  { speed := .token .overdrive, slew := .num 550, pdur := .token .forever, spud := .num 1048000, w1lt := .num 15,
    w0rt := .num 10, load := .num 3900, baud := .num 115200, spu := true }

/-! ### Decoding: words written out from the encodings (30_encoding R70 to R103) -/

theorem test_decode_markers : read (.send 0b11100001#8) = some .markData ∧ read (.send 0b11100011#8) = some .markCommand := by
  decide +kernel

/-- R72, R73: bits 3-2 are the speed. -/
theorem test_decode_owReset : read (.send 0b11001001#8) = some (.owReset 2#2) ∧ read (.send 0b11001101#8) = none := by
  decide +kernel

theorem test_decode_srchAcc :
    read (.send 0b10110101#8) = some (.srchAccOn 1#2) ∧ read (.send 0b10101001#8) = some (.srchAccOff 2#2) := by
  decide +kernel

theorem test_decode_bitWrite : read (.send 0b10000101#8) = some (.bitWrite 1#2) := by decide +kernel

theorem test_decode_searchRom : read (.send 0b11110000#8) = some .searchRom := by decide +kernel

/-- R83: bits 3-1 are the parameter. -/
theorem test_decode_cfgRead : read (.send 0b00001111#8) = some (.cfgRead 7#3) := by decide +kernel

/-- R80, R81: bits 6-4 are the field id and bits 3-1 the code. -/
theorem test_decode_cfgWrite :
    read (.send 0b00010011#8) = some (.cfgWriteSlew 1#3) ∧ read (.send 0b00101111#8) = some (.cfgWritePdur 7#3) ∧
    read (.send 0b00111011#8) = some (.cfgWriteSpud 5#3) ∧ read (.send 0b01000101#8) = some (.cfgWriteW1lt 2#3) ∧
    read (.send 0b01010111#8) = some (.cfgWriteW0rt 3#3) ∧ read (.send 0b01101001#8) = some (.cfgWriteLoad 4#3) ∧
    read (.send 0b01110111#8) = some (.cfgWriteBaud 3#3) := by decide +kernel

/-- R82, R95: a baud code above 3 is in no table. -/
theorem test_decode_reserved_wire : read (.send 0b01111001#8) = none ∧ read (.send 0x00#8) = none := by decide +kernel

theorem test_decode_responses :
    read (.receive .reset 0xCD#8) = some (.resetResponse 0xCD#8) ∧
    read (.receive .search 0xF0#8) = some (.searchEcho 0xF0#8) ∧
    read (.receive .bitWrite 0x83#8) = some (.bitWriteEcho 0x83#8) := by decide +kernel

theorem test_decode_crc :
    read (.request { sel := 0x10#8, ops := [] }) = some .crcClr ∧
    read (.request { sel := 0x11#8, ops := [.int 1] }) = some (.crcBit true) ∧
    read (.request { sel := 0x12#8, ops := [.int 0x28] }) = some (.crcByte 0x28#8) ∧
    read (.request { sel := 0x13#8, ops := [] }) = some .crcRead ∧
    read (.request { sel := 0x14#8, ops := [.bytes [1, 255]] }) = some (.crcSeq [1#8, 255#8]) ∧
    read (.request { sel := 0x15#8, ops := [.bytes []] }) = some (.crcSeqr []) := by decide +kernel

theorem test_decode_addr :
    read (.request { sel := 0x20#8, ops := [.int 1, .bytes [0, 0x45, 7, 0x36, 3, 8]] }) =
      some (.addrMake 1#8 [0#8, 0x45#8, 7#8, 0x36#8, 3#8, 8#8]) ∧
    read (.request { sel := 0x21#8, ops := [.bytes [0x10]] }) = some (.addrFromBytes [0x10#8]) ∧
    read (.request { sel := 0x22#8, ops := [.int 0xE700080336074510] }) = some (.addrFromSearch sampleAddr) ∧
    read (.request { sel := 0x23#8, ops := [.int 0xFFFFFFFFFFFFFFFF] }) = some (.addrToBytes 0xFFFFFFFFFFFFFFFF#64) ∧
    read (.request { sel := 0x24#8, ops := [.text "10.450736030800.e7".toList] }) = some (.addrFields sampleAddr) := by
  decide +kernel

theorem test_decode_codec :
    read (.request { sel := 0x30#8, ops := [.int 1, .int 63] }) = some (.encSearch 1#64 63) ∧
    read (.request { sel := 0x31#8, ops := [.bytes (List.replicate 16 0x55)] }) =
      some (.decSearch (List.replicate 16 0x55#8)) ∧
    read (.request { sel := 0x32#8, ops := [] }) = some .prsClr ∧
    read (.request { sel := 0x33#8, ops := [.int 0] }) = some (.prsBit false) ∧
    read (.request { sel := 0x34#8, ops := [.int 0x47] }) = some (.prsByte 0x47#8) ∧
    read (.request { sel := 0x35#8, ops := [] }) = some .prsRead := by decide +kernel

theorem test_decode_frame :
    read (.request { sel := 0x41#8, ops := [.mode .data, .bytes [0x55], .int 1] }) = some (.xact .data [0x55#8] 1) ∧
    read (.request { sel := 0x42#8, ops := [] }) = some .detect ∧
    read (.request { sel := 0x43#8, ops := [] }) = some .resetBus ∧
    read (.request { sel := 0x44#8, ops := [.int 0, .int 64] }) = some (.search 0#64 64) ∧
    read (.request { sel := 0x45#8, ops := [.bytes [0xCC, 0x44], .int 2] }) = some (.txrx [0xCC#8, 0x44#8] 2) ∧
    read (.request { sel := 0x50#8, ops := [] }) = some .enumerate := by decide +kernel

theorem test_decode_configure :
    read (.request
      { sel := 0x40#8
        ops := [.record
          { speed := .token .standard, slew := .num 15000, pdur := .num 32, spud := .num 16400, w1lt := .num 8,
            w0rt := .num 3, load := .num 1800, baud := .num 9600, spu := 0 }] }) = some (.configure firstValues) := by
  decide +kernel

theorem test_decode_pseudo :
    read (.pseudo .addrParse [.text ['1']]) = some (.addrParse ['1']) ∧
    read (.pseudo .addrRender [.int 5]) = some (.addrRender 5#64) ∧
    read (.pseudo .crcStream [.bytes [7]]) = some (.crcStream [7#8]) ∧
    read (.pseudo .prsStream [.bytes (List.replicate 16 9)]) = some (.prsStream (List.replicate 16 9#8)) := by decide +kernel

/-- R115: a literal that does not parse is an assembly error. -/
theorem test_decode_bad_literal :
    (match decode (.request { sel := 0x23#8, ops := [.text "--.10".toList] }) with
      | .error e => decide (e = .badLiteral)
      | .ok _ => false) = true := by decide +kernel

/-! ### Ill-formed instructions, one for each check -/

theorem test_illformed_speed :
    (Instr.owReset 3#2).wellFormed = false ∧ (Instr.srchAccOn 3#2).wellFormed = false ∧
    (Instr.srchAccOff 3#2).wellFormed = false ∧ (Instr.bitWrite 3#2).wellFormed = false := by decide +kernel

theorem test_illformed_baud : (Instr.cfgWriteBaud 4#3).wellFormed = false := by decide +kernel

/-- R82: of the codes 6 and 7 exactly one stands for FOREVER, so one of them is in no table. -/
theorem test_illformed_spud : (Instr.cfgWriteSpud 6#3).wellFormed = false ∨ (Instr.cfgWriteSpud 7#3).wellFormed = false := by
  cases h : Config.spuForeverIsSeven <;> simp [Instr.wellFormed, Config.spuForeverCode, h]

theorem test_illformed_serial : (Instr.addrMake 0#8 [1#8, 2#8, 3#8, 4#8, 5#8]).wellFormed = false := by decide +kernel

theorem test_illformed_last :
    (Instr.encSearch 1#64 65).wellFormed = false ∧ (Instr.search 1#64 65).wellFormed = false := by decide +kernel

theorem test_illformed_frame :
    (Instr.decSearch (List.replicate 15 0#8)).wellFormed = false ∧
    (Instr.prsStream (List.replicate 17 0#8)).wellFormed = false := by decide +kernel

/-! ### The CRC unit (95_test_vectors section 2) -/

/-- V-CRC-1: the first two bits. -/
theorem test_crcBit : crcBitStep 0x00#8 true = 0x8C#8 ∧ crcBitStep 0x8C#8 true = 0xCA#8 := by decide +kernel

/-- V-CRC-2, V-CRC-4 and the table V-CRC-T. -/
theorem test_crcByte :
    crcByteStep 0x00#8 0x0B#8 = 0x20#8 ∧ crcByteStep 0x9D#8 0x45#8 = 0x95#8 ∧ crcByteStep 0x00#8 0xFF#8 = 0x35#8 := by
  decide +kernel

/-- V-CRC-7. -/
theorem test_crcClr : (after (exec .crcClr (State.reset.setCrc 0xE7#8))).map (·.crcAcc) = some 0x00#8 := by decide +kernel

/-- P1 step 9. -/
theorem test_crcRead : reply (exec .crcRead (State.reset.setCrc 0x51#8)) = some (.result (.byte 0x51#8)) := by
  decide +kernel

/-- V-CRC-13 and V-CRC-8. -/
theorem test_crcSeq :
    reply (exec (.crcSeq [0x31#8, 0x32#8, 0x33#8, 0x34#8, 0x35#8, 0x36#8, 0x37#8, 0x38#8, 0x39#8]) State.reset) =
      some (.result (.byte 0xA1#8)) ∧
    reply (exec (.crcSeq []) State.reset) = some (.result (.byte 0x00#8)) := by decide +kernel

/-- V-CRC-17. -/
theorem test_crcSeqr :
    reply (exec (.crcSeqr [0x10#8, 0x45#8, 0x07#8, 0x36#8, 0x03#8, 0x08#8, 0x00#8]) State.reset) =
      some (.result (.byte 0x2D#8)) := by decide +kernel

/-- P1 steps 2 to 9, as one pseudo-operation. -/
theorem test_crcStream :
    (after (exec (.crcStream [0x28#8, 0x61#8, 0x64#8, 0x11#8, 0x8D#8, 0xF3#8, 0x02#8]) State.reset)).map
      (fun s => (s.response, s.crcAcc)) = some (some (.result (.byte 0x51#8)), 0x51#8) := by decide +kernel

/-! ### The address validator (95_test_vectors section 3) -/

/-- V-ADDR-4. -/
theorem test_addrMake :
    reply (exec (.addrMake 0x28#8 [0x61#8, 0x64#8, 0x11#8, 0x8D#8, 0xF3#8, 0x02#8]) State.reset) =
      some (.result (.addr 0x5102F38D11646128#64)) := by decide +kernel

/-- V-ADDR-8 and V-ADDR-9. -/
theorem test_addrFromBytes :
    reply (exec (.addrFromBytes [0x10#8, 0x45#8, 0x07#8, 0x36#8, 0x03#8, 0x08#8, 0x00#8, 0xE7#8]) State.reset) =
      some (.result (.addr sampleAddr)) ∧
    reply (exec (.addrFromBytes [0x10#8, 0x45#8, 0x07#8, 0x36#8, 0x03#8, 0x08#8, 0x00#8, 0x09#8]) State.reset) =
      some (.error (.crcMismatch 0xE7#8 0x09#8)) := by decide +kernel

/-- V-ADDR-11 and V-ADDR-12. -/
theorem test_addrFromBytes_length :
    reply (exec (.addrFromBytes [0x10#8, 0x45#8, 0x07#8, 0x36#8, 0x03#8, 0x08#8, 0x00#8]) State.reset) =
      some (.error (.invalidLength 7)) ∧
    reply (exec (.addrFromBytes [0x10#8, 0x45#8, 0x07#8, 0x36#8, 0x03#8, 0x08#8, 0x00#8, 0xE7#8, 0x00#8]) State.reset) =
      some (.error (.invalidLength 9)) := by decide +kernel

/-- V-ADDR-5 and V-ADDR-7. -/
theorem test_addrFromSearch :
    reply (exec (.addrFromSearch 0xFFFFFFFFFFFFFFFF#64) State.reset) = some (.error (.crcMismatch 0x14#8 0xFF#8)) ∧
    reply (exec (.addrFromSearch 0xE700080336074410#64) State.reset) = some (.error (.crcMismatch 0xD0#8 0xE7#8)) := by
  decide +kernel

/-- V-ADDR-13. -/
theorem test_addrToBytes :
    reply (exec (.addrToBytes 0x1808033607450001#64) State.reset) =
      some (.result (.bytes [0x01#8, 0x00#8, 0x45#8, 0x07#8, 0x36#8, 0x03#8, 0x08#8, 0x18#8])) := by decide +kernel

/-- V-ADDR-1. -/
theorem test_addrFields :
    reply (exec (.addrFields sampleAddr) State.reset) =
      some (.result (.fields 0x10#8 0x000803360745#48 0xE7#8)) := by decide +kernel

/-- V-TXT-2 to V-TXT-4. -/
theorem test_addrParse :
    (parseAddress "10.450736030800.E7".toList).toOption = some sampleAddr ∧
    (parseAddress "1.4507360308.--".toList).toOption = some 0x1808033607450001#64 ∧
    (parseAddress "28.1.--".toList).toOption = some 0x4001000000000028#64 := by decide +kernel

/-- V-TXT-5 to V-TXT-18, the errors. -/
theorem test_addrParse_errors :
    reply (exec (.addrParse "10.450736030800.09".toList) State.reset) = some (.error (.crcMismatch 0xE7#8 0x09#8)) ∧
    reply (exec (.addrParse "--.10".toList) State.reset) = some (.error (.invalidFormat 2)) ∧
    reply (exec (.addrParse "100.00.--".toList) State.reset) = some (.error .invalidFamily) ∧
    reply (exec (.addrParse "xx..zz".toList) State.reset) = some (.error .invalidFamily) ∧
    reply (exec (.addrParse "10.01020304050607.--".toList) State.reset) = some (.error .invalidSerial) ∧
    reply (exec (.addrParse "10.00.123".toList) State.reset) = some (.error .invalidCrc) := by decide +kernel

/-- 95_test_vectors section 3, the rendering of V-TXT-3's value. -/
theorem test_addrRender :
    reply (exec (.addrRender 0x1808033607450001#64) State.reset) =
      some (.result (.text "01.004507360308.18".toList)) := by decide +kernel

/-! ### The search codec (95_test_vectors section 4) -/

/-- V-ENC-3 and V-ENC-14. -/
theorem test_encSearch :
    reply (exec (.encSearch 1#64 63) State.reset) =
      some (.result (.bytes ([0x02#8] ++ List.replicate 14 0x00#8 ++ [0x40#8]))) ∧
    reply (exec (.encSearch 0xFFFFFFFFFFFFFFFF#64 63) State.reset) =
      some (.result (.bytes (List.replicate 15 0xAA#8 ++ [0xEA#8]))) := by decide +kernel

/-- V-ENC-7 under PROSE. -/
theorem test_encSearch_prose :
    encodeSearch .prose sampleAddr 5 = [0x00#8, 0x0A#8] ++ List.replicate 14 0x00#8 := by decide +kernel

/-- V-DEC-12 and V-DEC-7. -/
theorem test_decSearch :
    reply (exec (.decSearch frameR1) State.reset) = some (.result (.decoded sampleAddr 2)) ∧
    reply (exec (.decSearch (List.replicate 16 0x55#8)) State.reset) = some (.result (.decoded 0#64 0)) := by
  decide +kernel

/-! ### The parser (95_test_vectors section 5) -/

/-- V-PRS-1. -/
theorem test_prsClr :
    (after (exec .prsClr (State.reset.setPrs { idx := 9#8, acc := 1#64, nxt := 3#7, dl := true }))).map (·.prs) =
      some { idx := 0#8, acc := 0#64, nxt := 64#7, dl := false } := by decide +kernel

/-- V-PRS-2, its second bit, and V-PRS-10. -/
theorem test_prsBit :
    (after (exec (.prsBit false) (State.reset.setPrs { idx := 1#8, acc := 0#64, nxt := 64#7, dl := true }))).map (·.prs) =
      some { idx := 2#8, acc := 0#64, nxt := 0#7, dl := true } ∧
    refusal (exec (.prsBit false) (State.reset.setPrs { idx := 128#8, acc := 0#64, nxt := 64#7, dl := false })) =
      some .parserFull := by decide +kernel

/-- V-PRS-7, the unaligned byte, and V-PRS-11. -/
theorem test_prsByte :
    (after (exec (.prsByte 0x47#8) (State.reset.setPrs { idx := 1#8, acc := 0#64, nxt := 64#7, dl := true }))).map (·.prs) =
      some { idx := 9#8, acc := 0xB#64, nxt := 64#7, dl := false } ∧
    refusal (exec (.prsByte 0#8) (State.reset.setPrs { idx := 121#8, acc := 0#64, nxt := 64#7, dl := false })) =
      some .parserFull := by decide +kernel

/-- V-PRS-9. -/
theorem test_prsRead :
    reply (exec .prsRead (State.reset.setPrs { idx := 128#8, acc := 0#64, nxt := 64#7, dl := false })) =
      some (.result (.parser 0#64 64#7 128#8 true)) := by decide +kernel

/-- V-PRS-8. -/
theorem test_prsStream :
    reply (exec (.prsStream frameR1) State.reset) = some (.result (.parser sampleAddr 2#7 128#8 true)) := by decide +kernel

/-! ### The frame unit (95_test_vectors section 6) -/

/-- V-CFG-2 and V-CFG-5. -/
theorem test_configure :
    (after (exec (.configure lastValues) State.reset)).map (fun s => (s.cfg, s.cfgValid)) =
      some ({ speed := 2#2, slew := 7#3, pdur := 7#3, spud := 5#3, w1lt := 7#3, w0rt := 7#3, load := 7#3, baud := 3#3,
              spu := true }, true) ∧
    (after (exec (.configure { firstValues with slew := .num 1234, baud := .num 12345 }) State.reset)).map
      (fun s => (s.response.isSome, s.cfgValid)) = some (true, false) := by decide +kernel

/-- V-CFG-4. -/
theorem test_configure_error :
    reply (exec (.configure { firstValues with baud := .num 12345 }) State.reset) =
      some (.error (.configValidation .baud (.num 12345) [.num 9600, .num 19200, .num 57600, .num 115200])) := by
  decide +kernel

/-- V-FRM-1 and V-FRM-2. -/
theorem test_xact :
    sentAndMode (exec (.xact .data [0x55#8] 1) (lab .command zeroCodes [.arrive [0x55#8]])) =
      some ([0xE1#8, 0x55#8], .data) ∧
    reply (exec (.xact .data [0x55#8] 1) (lab .data zeroCodes [.arrive [0xAA#8]])) =
      some (.result (.bytes [0xAA#8])) := by decide +kernel

/-- V-FRM-4: the recovery's own read draws five bytes. -/
theorem test_xact_shortRead :
    (after (exec (.xact .command [0xC1#8] 1) (lab .command zeroCodes [.arrive [], .arrive (List.replicate 5 0#8)]))).map
      (fun s => (s.response, s.mode, detectRuns s.history)) =
      some (some (.error (.transport .shortRead)), .command, 1) := by decide +kernel

/-- V-FRM-6 and V-FRM-7. -/
theorem test_txrx :
    sentAndMode (exec (.txrx [0xCC#8, 0x44#8] 0) (lab .command zeroCodes [])) =
      some ([0xE1#8, 0xCC#8, 0x44#8], .data) ∧
    sentAndMode (exec (.txrx [0xE3#8, 0x00#8] 1) (lab .data zeroCodes [.arrive [0x00#8]])) =
      some ([0xE3#8, 0x00#8], .data) := by decide +kernel

/-- V-DET-2 and V-DET-4. -/
theorem test_detect :
    (after (exec .detect (lab .data (session 1#2 1#3 2#3 2#3 0#3) [.arrive [0x12#8, 0x44#8, 0x54#8, 0x00#8, 0x84#8]]))).map
      (fun s => (s.response, outStream s.history, s.liveBaud)) =
      some (some (.result (.present true)), [0xC5#8, 0x13#8, 0x45#8, 0x55#8, 0x0F#8, 0x85#8], .code 0#2) ∧
    reply (exec .detect (lab .command (session 0#2 7#3 7#3 7#3 3#3) [.arrive [0x00#8, 0x00#8, 0x00#8, 0x00#8, 0x80#8]])) =
      some (.result (.present false)) := by decide +kernel

/-- V-RST-3 and V-RST-9. -/
theorem test_resetBus :
    reply (exec .resetBus (lab .command (session 1#2 0#3 0#3 0#3 0#3) [.arrive [0xCF#8]])) =
      some (.result (.reset .ds2480b 3#2)) ∧
    sentAndMode (exec .resetBus (lab .data zeroCodes [.arrive [0xCD#8]])) = some ([0xE3#8, 0xC1#8], .command) := by
  decide +kernel

/-- V-RST-6: the error surfaces after the recovery. -/
theorem test_resetBus_garbled :
    reply (exec .resetBus (lab .command zeroCodes [.arrive [0xFF#8], .arrive (List.replicate 5 0#8)])) =
      some (.error (.invalidResponse .reset 0xFF#8)) := by decide +kernel

/-- 43_frame_mode R218. -/
theorem test_search :
    (after (exec (.search 0#64 0) (lab .command zeroCodes [.arrive [0xCD#8], .arrive (0xF0#8 :: frameR1)]))).map
      (fun s => (s.response, outStream s.history, s.mode)) =
      some (some (.result (.decoded sampleAddr 2)),
        [0xC1#8, 0xE1#8, 0xF0#8, 0xE3#8, 0xB1#8, 0xE1#8, 0x01#8] ++ List.replicate 15 0x00#8 ++ [0xE3#8, 0xA1#8], .data) := by
  decide +kernel

/-- V-ENUM-2 and V-ENUM-4's error, at the first echo. -/
theorem test_enumerate :
    (after (exec .enumerate (lab .command zeroCodes [.arrive [0xCD#8], .arrive (0xF0#8 :: List.replicate 16 0#8)]))).map
      (fun s => (s.response, s.enum.iter)) = some (some (.result (.addrs [0#64])), 1#7) ∧
    reply (exec .enumerate (lab .command zeroCodes
      [.arrive [0xCD#8], .arrive (0xE0#8 :: List.replicate 16 0#8), .arrive (List.replicate 5 0#8)])) =
      some (.error (.invalidResponse .search 0xE0#8)) := by decide +kernel

/-! ### The wire rows -/

/-- 30_encoding R70, R93: a marker goes out only on a mode change. -/
theorem test_markers :
    sentAndMode (exec .markData (lab .command zeroCodes [])) = some ([0xE1#8], .data) ∧
    sentAndMode (exec .markCommand (lab .command zeroCodes [])) = some ([], .command) := by decide +kernel

/-- 30_encoding R73 to R77, at speed 2. -/
theorem test_speedCommands :
    sentAndMode (exec (.owReset 2#2) (lab .command zeroCodes [.arrive [0xCD#8]])) = some ([0xC9#8], .command) ∧
    sentAndMode (exec (.srchAccOn 2#2) (lab .command zeroCodes [])) = some ([0xB9#8], .command) ∧
    sentAndMode (exec (.srchAccOff 2#2) (lab .command zeroCodes [])) = some ([0xA9#8], .command) ∧
    sentAndMode (exec (.bitWrite 2#2) (lab .command zeroCodes [.arrive [0x88#8]])) = some ([0x89#8], .command) := by
  decide +kernel

/-- 30_encoding R79: speed code 3 is never sent. -/
theorem test_speed3_refused :
    refusal (exec (.owReset 3#2) (lab .command zeroCodes [])) = some (.reservedWireByte 0xCD#8) := by decide +kernel

/-- 30_encoding R78, R80, R83. -/
theorem test_otherWire :
    sentAndMode (exec .searchRom (lab .command zeroCodes [.arrive [0xF0#8]])) = some ([0xE1#8, 0xF0#8], .data) ∧
    sentAndMode (exec (.cfgWriteW1lt 2#3) (lab .command zeroCodes [.arrive [0x44#8]])) = some ([0x45#8], .command) ∧
    reply (exec (.cfgRead 7#3) (lab .command zeroCodes [.arrive [0x06#8]])) = some (.result (.bytes [0x06#8])) := by
  decide +kernel

/-- 30_encoding R85 to R87: V-RST-4's byte, an echo byte, and V-DET-5's last byte. -/
theorem test_responses :
    reply (exec (.resetResponse 0xEC#8) (lab .command zeroCodes [])) = some (.result (.reset .ds2480b 0#2)) ∧
    reply (exec (.searchEcho 0xF3#8) (lab .command zeroCodes [])) = some (.result .none) ∧
    reply (exec (.bitWriteEcho 0x83#8) (lab .command zeroCodes [])) = some (.result (.echo true)) := by decide +kernel

/-! ### The step -/

/-- P1 step 2, as the first instruction after reset. -/
theorem test_step_runs :
    (after (step (State.reset.issue (.request { sel := 0x12#8, ops := [.int 0x28] })))).map
      (fun s => (s.crcAcc, s.queue)) = some (0xE1#8, []) := by decide +kernel

/-- 30_encoding R104, 43_frame_mode R199. -/
theorem test_step_refuses :
    refusal (step (State.reset.issue (.request { sel := 0xFF#8, ops := [] }))) = some (.reservedSelector 0xFF#8) ∧
    refusal (step (State.reset.issue (.request { sel := 0x43#8, ops := [] }))) = some .unconfigured := by decide +kernel

/-- A row's word is the first instruction after reset. -/
theorem test_withFetchWord :
    decodeTableWord 8 0x13 = some .crcRead ∧
    reply (step (State.reset.withFetchWord 8 0x13)) = some (.result (.byte 0x00#8)) := by decide +kernel

/-! ### Witnesses: states and operands that meet the hypotheses of each statement -/

/-- StepRunsTheDecodedInstruction: an empty queue, an item that decodes and one that does not. -/
theorem test_witness_step :
    State.reset.queue = [] ∧ (State.reset.issue (.send 0xE1#8)).queue = .send 0xE1#8 :: [] ∧
    decode (.send 0xE1#8) = .ok .markData ∧ decode (.send 0x00#8) = .error (.reservedWireByte 0x00#8) :=
  ⟨rfl, rfl, rfl, rfl⟩

/-- DecodeOfEncodeIsTheInstruction, at operands on the edge of their domains. -/
theorem test_witness_encode :
    (Instr.encSearch 0xFFFFFFFFFFFFFFFF#64 64).wellFormed = true ∧ (Instr.owReset 2#2).wellFormed = true ∧
    (Instr.cfgWriteSpud 5#3).wellFormed = true ∧ (Instr.addrMake 0xFF#8 (List.replicate 6 0xFF#8)).wellFormed = true := by
  decide +kernel

/-- DecodedInstructionsAreInDomain and WireBytesReencode. -/
theorem test_witness_decode :
    decode (.request { sel := 0x13#8, ops := [] }) = .ok .crcRead ∧ decode (.send 0xC9#8) = .ok (.owReset 2#2) :=
  ⟨rfl, rfl⟩

/-- ReservedSelectorIsRefused. -/
theorem test_witness_selector :
    (State.reset.issue (.request { sel := 0x16#8, ops := [] })).queue = .request { sel := 0x16#8, ops := [] } :: [] ∧
    0x16#8 ∉ [0x10#8, 0x11#8, 0x12#8, 0x13#8, 0x14#8, 0x15#8, 0x20#8, 0x21#8, 0x22#8, 0x23#8, 0x24#8, 0x30#8, 0x31#8,
      0x32#8, 0x33#8, 0x34#8, 0x35#8, 0x40#8, 0x41#8, 0x42#8, 0x43#8, 0x44#8, 0x45#8, 0x50#8] := ⟨rfl, by decide⟩

/-- OperandOutsideItsDomainIsRefused: the nearest values outside each domain, at the first and the last index of a list. -/
theorem test_witness_domain :
    ((-1 : Int) < 0 ∨ 1 < (-1 : Int)) ∧ ((2 : Int) < 0 ∨ 1 < (2 : Int)) ∧ { zeroRecord with spu := 2 }.spu = 2 ∧
    ((-1 : Int) < 0 ∨ 255 < (-1 : Int)) ∧ ((256 : Int) < 0 ∨ 255 < (256 : Int)) ∧
    (∃ v ∈ [(0 : Int), 255, 256], v < 0 ∨ 255 < v) ∧ (∃ v ∈ [(-1 : Int), 0], v < 0 ∨ 255 < v) ∧
    ((2 ^ 64 : Int) < 0 ∨ (2 : Int) ^ 64 ≤ 2 ^ 64) ∧ ((-1 : Int) < 0 ∨ 64 < (-1 : Int)) ∧ ((65 : Int) < 0 ∨ 64 < (65 : Int)) ∧
    64 < 65 ∧ [(0 : Int), 0, 0, 0, 0].length ≠ 6 ∧ [0#8, 0#8, 0#8, 0#8, 0#8].length ≠ 6 ∧
    (List.replicate 15 (0 : Int)).length ≠ 16 ∧ (List.replicate 17 0#8).length ≠ 16 := by decide

/-- OperandOutsideItsDomainIsRefused: an operand that is no mode and one that is no record, and an item of the queue. -/
theorem test_witness_domain_kind :
    (∀ m, Operand.int 0 ≠ .mode m) ∧ (∀ r, Operand.int 0 ≠ .record r) ∧
    (State.reset.issue (.request { sel := 0x34#8, ops := [.int 256] })).queue =
      .request { sel := 0x34#8, ops := [.int 256] } :: [] :=
  ⟨fun _ h => (by cases h), fun _ h => (by cases h), rfl⟩

/-- OperandOutsideItsDomainIsRefused: an address literal that parses and one that does not. -/
theorem test_witness_literal :
    exec (.addrParse "10.450736030800.e7".toList) State.reset = .next (State.reset.respond (.result (.addr sampleAddr))) ∧
    exec (.addrParse "--.10".toList) State.reset = .next (State.reset.respond (.error (.invalidFormat 2))) := by
  constructor
  · have : (parseAddress "10.450736030800.e7".toList).toOption = some sampleAddr := by decide +kernel
    cases h : parseAddress "10.450736030800.e7".toList with
    | ok v => rw [h] at this; cases this; simp only [exec, execAddrParse, h]; rfl
    | error e => rw [h] at this; cases this
  · have : (match parseAddress "--.10".toList with
        | .ok _ => false
        | .error e => decide (e = .invalidFormat 2)) = true := by decide +kernel
    cases h : parseAddress "--.10".toList with
    | ok v => rw [h] at this; cases this
    | error e => rw [h] at this; cases of_decide_eq_true this; simp only [exec, execAddrParse, h]; rfl

/-- StepKeepsLegalValues: a legal state that steps, and one that hangs. -/
theorem test_witness_legal :
    ((lab .command zeroCodes [.hang]).issue (.request { sel := 0x43#8, ops := [] })).Legal ∧
    stuck (step ((lab .command zeroCodes [.hang]).issue (.request { sel := 0x43#8, ops := [] }))) = true ∧
    (after (step ((lab .command zeroCodes [.hang]).issue (.request { sel := 0x10#8, ops := [] })))).isSome = true := by
  refine ⟨⟨⟨by decide, .inl rfl, fun i _ _ => ?_⟩, fun _ => ⟨by decide, .inl (by decide), by decide⟩, by decide, by decide,
    by decide, fun v hv => ?_⟩, by decide +kernel, by decide +kernel⟩
  · simp [lab, State.issue, State.setQueue, State.reset, Parser.start]
  · simp [lab, State.issue, State.setQueue, State.reset, Cursor.start] at hv

/-- AddrMakeBuildsAValidAddress, AddrFromSearchValidates and RenderedAddressParses: a serial of six bytes, a valid value and
an invalid one. -/
theorem test_witness_addr :
    (List.replicate 6 0xFF#8).length = 6 ∧ AddrValid sampleAddr ∧ ¬AddrValid 0xFFFFFFFFFFFFFFFF#64 := by decide +kernel

/-- AddrFromBytesValidates: one list for each clause. -/
theorem test_witness_addrBytes :
    (List.replicate 7 0#8).length ≠ 8 ∧ (List.replicate 9 0#8).length ≠ 8 ∧ (List.replicate 7 0xFF#8).length = 7 ∧
    crc8 (List.replicate 7 0xFF#8) ≠ 0xFF#8 := by decide +kernel

/-- AddrParseChecksInOrder: a text for each clause, with serials of no byte, of one, of six and of seven. -/
theorem test_witness_parse :
    (splitDots "1.2.3.4".toList).length ≠ 3 ∧ splitDots "xx..--".toList = [['x', 'x'], [], ['-', '-']] ∧
    hexField ['x', 'x'] = none ∧ hexField ['1'] = some [0x01#8] ∧ hexField [] = some [] ∧ hexField ['5'] = some [0x05#8] ∧
    (hexField (List.replicate 12 '0')).map List.length = some 6 ∧
    (hexField (List.replicate 14 '0')).map List.length = some 7 ∧ ['1', 'g'] ≠ ['-', '-'] ∧ hexField ['1', 'g'] = none ∧
    hexField ['e', '7'] = some [addrCrc sampleAddr] ∧ hexField ['0', '9'] = some [0x09#8] ∧
    0x09#8 ≠ addrCrc sampleAddr := by decide +kernel

/-- CanonicalTextRoundTrips. -/
theorem test_witness_canonical :
    "10".toList.length = 2 ∧ "450736030800".toList.length = 12 ∧ "e7".toList.length = 2 ∧
    (∀ c ∈ "10".toList ++ "450736030800".toList ++ "e7".toList, lowerHex c) ∧
    exec (.addrParse "10.450736030800.e7".toList) State.reset =
      .next (State.reset.respond (.result (.addr sampleAddr))) := by
  refine ⟨by decide, by decide, by decide, ?_, test_witness_literal.1⟩
  · have : (("10".toList ++ "450736030800".toList ++ "e7".toList).all fun c =>
        decide ((48 ≤ c.toNat ∧ c.toNat ≤ 57) ∨ (97 ≤ c.toNat ∧ c.toNat ≤ 102))) = true := by decide +kernel
    intro c hc
    exact of_decide_eq_true (List.all_eq_true.1 this c hc)

/-- VectorRequestLanes, ProseRequestLanes, RequestDependsOnTheDecidedBits and RequestRoundTrip, at the edges of `last`. -/
theorem test_witness_request :
    State.reset.encVariant = .vector ∧ { State.reset with encVariant := .prose }.encVariant = .prose ∧ 0 ≤ 64 ∧ 64 ≤ 64 ∧ 64 < 65 ∧
    63 < 64 ∧ (∀ i ≤ 63, (1#64).getLsbD i = (1#64).getLsbD i) ∧
    encodeSearch .vector 1#64 64 = encodeSearch .vector 1#64 64 :=
  ⟨rfl, rfl, by decide, by decide, by decide, by decide, fun _ _ => rfl, rfl⟩

/-- RequestDependsOnTheDecidedBits: two different trees that agree up to position 2. -/
theorem test_witness_decided : (0x7#64 ≠ 0xF#64) ∧ ∀ i ≤ 2, (0x7#64).getLsbD i = (0xF#64).getLsbD i := by decide

/-- RequestHoldsNoMarker. -/
theorem test_witness_noMarker : 0x03#8 ∈ encodeSearch .vector 1#64 0 ∧ 0xAA#8 ∈ encodeSearch .prose (BitVec.allOnes 64) 63 := by
  decide +kernel

/-- DecoderReadsTheLanes, both its clauses, and ParserStreamMatchesTheDecoder. -/
theorem test_witness_frame : frameR1.length = 16 ∧ (frameR1.drop 1).length ≠ 16 ∧ (0#8 :: frameR1).length ≠ 16 := by decide

/-- ParserTakesABit: the full parser, an even index, an odd one that is the first untaken branch, and an odd one that is
not. -/
theorem test_witness_parserBit :
    (State.reset.setPrs { idx := 128#8, acc := 0#64, nxt := 64#7, dl := false }).prs.idx = 128#8 ∧
    State.reset.prs.idx ≠ 128#8 ∧ State.reset.prs.idx.getLsbD 0 = false ∧
    (State.reset.setPrs { idx := 127#8, acc := 0#64, nxt := 64#7, dl := true }).prs.idx.getLsbD 0 = true ∧
    (State.reset.setPrs { idx := 127#8, acc := 0#64, nxt := 64#7, dl := true }).prs.dl = true ∧
    (State.reset.setPrs { idx := 127#8, acc := 0#64, nxt := 64#7, dl := true }).prs.nxt = 64#7 ∧
    ¬((State.reset.setPrs { idx := 127#8, acc := 0#64, nxt := 5#7, dl := true }).prs.nxt = 64#7) := by decide +kernel

/-- ParserByteIsEightBits: the last index that takes a byte and the first that does not. -/
theorem test_witness_parserByte :
    (State.reset.setPrs { idx := 120#8, acc := 0#64, nxt := 64#7, dl := false }).prs.idx ≤ 120#8 ∧
    (State.reset.setPrs { idx := 121#8, acc := 0#64, nxt := 64#7, dl := false }).prs.idx > 120#8 := by decide +kernel

/-- ConfigureStoresTheCodes: a record of last values, with FOREVER and without it. -/
theorem test_witness_configure :
    (∀ f, cfgGet lastValues f ∈ cfgLegal f) ∧ lastValues.spud ≠ .token .forever ∧
    (∀ f, cfgGet { lastValues with spud := .token .forever } f ∈ cfgLegal f) := by
  refine ⟨fun f => ?_, by decide, fun f => ?_⟩ <;> cases f <;>
    simp [cfgGet, lastValues, cfgLegal, cfgTable, codesFrom0, List.zipIdx]

/-- ConfigureReportsTheFirstIllegalField: an illegal first field, and an illegal last one after seven legal ones. -/
theorem test_witness_firstIllegal :
    [CfgField.speed, .slew, .pdur, .spud, .w1lt, .w0rt, .load, .baud] =
      [] ++ .speed :: [.slew, .pdur, .spud, .w1lt, .w0rt, .load, .baud] ∧
    cfgGet { firstValues with speed := .token (.other "fast") } .speed ∉ cfgLegal .speed ∧
    [CfgField.speed, .slew, .pdur, .spud, .w1lt, .w0rt, .load, .baud] =
      [.speed, .slew, .pdur, .spud, .w1lt, .w0rt, .load] ++ .baud :: [] ∧
    (∀ g ∈ [CfgField.speed, .slew, .pdur, .spud, .w1lt, .w0rt, .load],
      cfgGet { firstValues with baud := .num 12345 } g ∈ cfgLegal g) ∧
    cfgGet { firstValues with baud := .num 12345 } .baud ∉ cfgLegal .baud := by
  refine ⟨rfl, by decide, rfl, fun g hg => ?_, by decide⟩
  cases g <;> simp [cfgGet, firstValues, cfgLegal, cfgTable, codesFrom0, List.zipIdx] at hg ⊢

/-- UnconfiguredIsRefused and UnconfiguredSessionIsUnobservable. -/
theorem test_witness_unconfigured : State.reset.cfgValid = false ∧ (Instr.search 0#64 64).wellFormed = true := by decide +kernel

/-- XactCompletes and WireRowsCompleteAsTransactions: with an answer, and with none asked for; a command row, a marker row and
CFG_READ of parameter 0. -/
theorem test_witness_xact :
    (lab .command zeroCodes [.arrive [0x55#8]]).cfgValid = true ∧
    Sends (lab .command zeroCodes [.arrive [0x55#8]]) 0
      (frameFor .data [0x55#8] (lab .command zeroCodes [.arrive [0x55#8]])).length ∧
    Answered (lab .command zeroCodes [.arrive [0x55#8]]) 1 [0x55#8] ∧ Answered (lab .command zeroCodes []) 0 [] ∧
    wirePayload (.owReset 0#2) = some (.command, [0xC1#8 ||| ((0#2).setWidth 8 <<< 2)], 1) ∧
    (Instr.owReset 0#2).wellFormed = true ∧ wirePayload .markData = some (.data, [], 0) ∧
    Sends (lab .data zeroCodes []) 0 (frameFor .data [] (lab .data zeroCodes [])).length ∧
    wirePayload (.cfgRead 0#3) = some (.command, [0x01#8], 1) ∧ (Instr.cfgRead 0#3).wellFormed = true := by decide +kernel

/-- XactSendFailureRaises, XACT: a failed flush, a write that fails, and short ones at both ends. -/
theorem test_witness_sendFailure :
    (drawing .command [false] [] [] []).cfgValid = true ∧ (drawing .command [false] [] [] []).flushDraw 0 = false ∧
    (let s := drawing .command [true] [.error] [] []
    s.flushDraw 0 = true ∧ writeOutcome (frameFor .data [0x55#8] s).length (s.writeDraw 0) = .error) ∧
    (let s := drawing .command [true] [.count 0] [] []
    writeOutcome (frameFor .data [0x55#8] s).length (s.writeDraw 0) = .short 0) ∧
    let s := drawing .command [true] [.count 1] [] []
    writeOutcome (frameFor .data [0x55#8] s).length (s.writeDraw 0) = .short 1 := by decide +kernel

/-- XactSendFailureRaises, RESET_BUS: a frame that a flush loses, and one whose second byte is not written. -/
theorem test_witness_sendFailure_reset :
    (let s := drawing .command [false] [] [] []
    ¬Sends s 0 (if s.mode = .command then 1 else 2)) ∧
    let s := drawing .data [true] [.count 1] [] []
    ¬Sends s 0 (if s.mode = .command then 1 else 2) := by decide +kernel

/-- XactSendFailureRaises, SEARCH's own transaction: its flush fails, its write is one byte short, and its write fails. -/
theorem test_witness_sendFailure_search :
    (let s := drawing .data [true, false] [.full] [.arrive [0xC8#8]] []
    Sends s 0 (if s.mode = .command then 1 else 2) ∧ Delivers s 0 1 [0xC8#8] ∧ 0xC8#8 &&& 0xC0#8 = 0xC0#8 ∧
    ((0xC8#8).extractLsb' 2 3).toNat = ChipVersion.ds2480.code ∧ s.flushDraw 1 = false) ∧
    (let s := drawing .data [true, true] [.full, .count 22] [.arrive [0xC8#8]] []
    s.flushDraw 1 = true ∧ writeOutcome 23 (s.writeDraw 1) = .short 22) ∧
    let s := drawing .data [true, true] [.full, .error] [.arrive [0xC8#8]] []
    writeOutcome 23 (s.writeDraw 1) = .error := by decide +kernel

/-- XactReadFailureResyncs: a short read and a failed one, with a recovery that does not hang, in XACT and in RESET_BUS. -/
theorem test_witness_readFailure :
    (let s := lab .data zeroCodes [.arrive [], .arrive []]
    Sends s 0 (frameFor .data [0x55#8] s).length ∧ readOutcome 1 [] (s.readDraw 0) = .short ∧ NoHang s 1 ∧
    Sends s 0 (if s.mode = .command then 1 else 2)) ∧
    readOutcome 1 [] ((lab .data zeroCodes [.error, .arrive []]).readDraw 0) = .error := by decide +kernel

/-- XactReadFailureResyncs, SEARCH's own transaction: a read one byte short and a failed one, with a recovery that does not
hang. -/
theorem test_witness_readFailure_search :
    (let s := lab .command zeroCodes [.arrive [0xCD#8], .arrive frameR1, .arrive []]
    Sends s 0 (if s.mode = .command then 1 else 2) ∧ Sends s 1 23 ∧ Delivers s 0 1 [0xCD#8] ∧
    readOutcome 17 [] (s.readDraw 1) = .short ∧ NoHang s 2) ∧
    readOutcome 17 [] ((lab .command zeroCodes [.arrive [0xCD#8], .error, .arrive []]).readDraw 1) = .error := by
  decide +kernel

/-- DetectCompletes. -/
theorem test_witness_detect :
    let s := lab .data zeroCodes [.arrive [0x10#8, 0x40#8, 0x50#8, 0x00#8, 0x80#8]]
    s.cfgValid = true ∧ s.lineDraw 0 = true ∧ s.lineDraw 1 = true ∧ s.lineDraw 2 = true ∧ s.flushDraw 0 = true ∧
    writeOutcome 1 (s.writeDraw 0) = .ok ∧ writeOutcome 5 (s.writeDraw 1) = .ok ∧
    Delivers s 0 5 [0x10#8, 0x40#8, 0x50#8, 0x00#8, 0x80#8] := by decide +kernel

/-- DetectNeverRecovers: every answer of 43_frame_mode R210, by the primitive that fails first; a flush that fails before a
read that would hang; and a hung read. -/
theorem test_witness_detectAnswer :
    detectAnswer (drawing .data [true] [.full, .full] [.arrive [0x10#8, 0x40#8, 0x50#8, 0x00#8, 0x80#8]] [true, true, true]) =
      some (.result (.present true)) ∧
    detectAnswer (drawing .data [] [] [] [false]) = some (.error (.transport .line)) ∧
    detectAnswer (drawing .data [] [] [] [true, false]) = some (.error (.transport .line)) ∧
    detectAnswer (drawing .data [] [] [] [true, true, false]) = some (.error (.transport .line)) ∧
    detectAnswer (drawing .data [false] [] [.hang] [true, true, true]) = some (.error (.transport .flush)) ∧
    detectAnswer (drawing .data [true] [.error] [] [true, true, true]) = some (.error (.transport .write)) ∧
    detectAnswer (drawing .data [true] [.count 0] [] [true, true, true]) = some (.error (.transport .shortWrite)) ∧
    detectAnswer (drawing .data [true] [.full, .error] [] [true, true, true]) = some (.error (.transport .write)) ∧
    detectAnswer (drawing .data [true] [.full, .count 4] [] [true, true, true]) = some (.error (.transport .shortWrite)) ∧
    detectAnswer (drawing .data [true] [.full, .full] [.error] [true, true, true]) = some (.error (.transport .read)) ∧
    detectAnswer (drawing .data [true] [.full, .full] [.arrive [0#8, 0#8, 0#8, 0#8]] [true, true, true]) =
      some (.error (.transport .shortRead)) ∧
    detectAnswer (drawing .data [true] [.full, .full] [.hang] [true, true, true]) = none := by decide +kernel

/-- ResetBusCompletes, at both versions, and ResetBusRejectsGarbledResponses, at bytes that fail each test. -/
theorem test_witness_reset :
    let s := lab .data zeroCodes [.arrive [0xC8#8], .arrive []]
    s.cfgValid = true ∧ Sends s 0 (if s.mode = .command then 1 else 2) ∧ Delivers s 0 1 [0xC8#8] ∧ NoHang s 1 ∧
    0xC8#8 &&& 0xC0#8 = 0xC0#8 ∧ ((0xC8#8).extractLsb' 2 3).toNat = ChipVersion.ds2480.code ∧
    ((0xCF#8).extractLsb' 2 3).toNat = ChipVersion.ds2480b.code ∧
    ¬(0x8D#8 &&& 0xC0#8 = 0xC0#8 ∧ (((0x8D#8).extractLsb' 2 3).toNat = 2 ∨ ((0x8D#8).extractLsb' 2 3).toNat = 3)) ∧
    ¬(0xD0#8 &&& 0xC0#8 = 0xC0#8 ∧ (((0xD0#8).extractLsb' 2 3).toNat = 2 ∨ ((0xD0#8).extractLsb' 2 3).toNat = 3)) := by
  decide +kernel

/-- SearchCompletes, SearchRejectsABadEcho, SearchLeavesTheModeHazard. -/
theorem test_witness_search :
    let s := lab .command zeroCodes [.arrive [0xCD#8], .arrive (0xF0#8 :: frameR1), .arrive []]
    s.cfgValid = true ∧ 64 ≤ 64 ∧ Sends s 0 (if s.mode = .command then 1 else 2) ∧ Sends s 1 23 ∧
    Delivers s 0 1 [0xCD#8] ∧ Delivers s 1 17 (0xF0#8 :: frameR1) ∧ 0xCD#8 &&& 0xC0#8 = 0xC0#8 ∧
    ((0xCD#8).extractLsb' 2 3).toNat = ChipVersion.ds2480b.code ∧ 0xF0#8 &&& 0xF0#8 = 0xF0#8 ∧
    0xE0#8 &&& 0xF0#8 ≠ 0xF0#8 ∧ NoHang s 2 ∧
    (after (exec (.search 0#64 64) s)).map (·.response) = some (some (.result (.decoded sampleAddr 2))) := by
  decide +kernel

/-- ResetErrorEndsTheSearch and EnumerateErrorsAreSearchErrors: a reset that fails, and the enumeration with it. -/
theorem test_witness_resetError :
    reply (exec .resetBus (lab .command zeroCodes [.error, .arrive []])) = some (.error (.transport .read)) ∧
    reply (exec .enumerate (lab .command zeroCodes [.error, .arrive []])) = some (.error (.transport .read)) := by
  decide +kernel

/-- Sixty-four searches that are all answered with the frame of V-ENUM-3. -/
def manySearches : State :=
  { State.reset with
    cfgValid := true
    env :=
      { flushes := { script := List.replicate 128 true, beyond := 0 }
        writes := { script := List.replicate 128 .full, beyond := 0 }
        reads :=
          { script := (List.replicate 64 [ReadDraw.arrive [0xCD#8], .arrive (0xF0#8 :: List.replicate 16 0x55#8)]).flatten
            beyond := 0 }
        lines := { script := [], beyond := 0 } } }

/-- EnumerateCompletes. -/
theorem test_witness_enumerate :
    manySearches.cfgValid = true ∧ (∀ k < 128, manySearches.flushDraw k = true) ∧
    (∀ k < 128, manySearches.writeDraw k = .full) ∧
    (∀ k < 64, ∃ y v, Delivers manySearches (2 * k) 1 [y] ∧ y &&& 0xC0#8 = 0xC0#8 ∧
      (y.extractLsb' 2 3).toNat = ChipVersion.code v) ∧
    (∀ k < 64, ∃ e rs, Delivers manySearches (2 * k + 1) 17 (e :: rs) ∧ e &&& 0xF0#8 = 0xF0#8) := by
  have h : ∀ k < 64, Delivers manySearches (2 * k) 1 [0xCD#8] ∧
      Delivers manySearches (2 * k + 1) 17 (0xF0#8 :: List.replicate 16 0x55#8) := by decide +kernel
  exact ⟨rfl, by decide +kernel, by decide +kernel,
    fun k hk => ⟨0xCD#8, .ds2480b, (h k hk).1, by decide, by decide⟩,
    fun k hk => ⟨0xF0#8, _, (h k hk).2, by decide⟩⟩

/-- EnumerateTurn: a SEARCH that answers, and one that ends in an error in the middle of an enumeration. -/
theorem test_witness_turn :
    (match searchBody 0#64 0 (lab .command zeroCodes [.arrive [0xCD#8], .arrive (0xF0#8 :: frameR1)]) with
      | .ok r _ => decide (r = (sampleAddr, 2))
      | _ => false) = true ∧
    let s := (lab .data zeroCodes [.error, .arrive []]).setEnum
      { tree := sampleAddr, pos := 2#7, iter := 1#7, list := [sampleAddr] }
    s.cfgValid = true ∧
    (match searchBody s.enum.tree s.enum.pos.toNat s with
      | .err e _ => decide (e = .transport .read)
      | _ => false) = true := by decide +kernel

/-- ResponseRowsCheckTheByte: good bytes, and bytes that fail the mask, the version and the echo test, with a recovery that
does not hang. -/
theorem test_witness_responses :
    (lab .command zeroCodes []).cfgValid = true ∧ 0xEC#8 &&& 0xC0#8 = 0xC0#8 ∧
    ((0xEC#8).extractLsb' 2 3).toNat = ChipVersion.ds2480b.code ∧ 0xFF#8 &&& 0xF0#8 = 0xF0#8 ∧
    NoHang (lab .command zeroCodes [.arrive []]) 0 ∧
    ¬(0x4C#8 &&& 0xC0#8 = 0xC0#8 ∧ (((0x4C#8).extractLsb' 2 3).toNat = 2 ∨ ((0x4C#8).extractLsb' 2 3).toNat = 3)) ∧
    ¬(0xFF#8 &&& 0xC0#8 = 0xC0#8 ∧ (((0xFF#8).extractLsb' 2 3).toNat = 2 ∨ ((0xFF#8).extractLsb' 2 3).toNat = 3)) ∧
    0xEF#8 &&& 0xF0#8 ≠ 0xF0#8 := by decide +kernel

/-- HungReadIsStuck: the first read hangs, of a transaction, of DETECT and of a reset. -/
theorem test_witness_hung :
    let s := lab .data zeroCodes [.hang]
    s.cfgValid = true ∧ Sends s 0 (frameFor .data [0x55#8] s).length ∧ 1 ≠ 0 ∧ s.readDraw 0 = .hang ∧ ReachesRead s 0 0 ∧
    Sends s 0 (if s.mode = .command then 1 else 2) := by decide +kernel

/-- HungReadIsStuck: the recovery's read hangs, after a short read, a failed one and a garbled reset response. -/
theorem test_witness_hung_recovery :
    (let s := lab .command zeroCodes [.arrive [], .hang]
    readOutcome 1 [] (s.readDraw 0) = .short ∧ ReachesRead s 1 1 ∧ s.readDraw 1 = .hang) ∧
    (let s := lab .command zeroCodes [.error, .hang]
    readOutcome 1 [] (s.readDraw 0) = .error ∧ ReachesRead s 1 1 ∧ s.readDraw 1 = .hang) ∧
    let s := lab .command zeroCodes [.arrive [0x0D#8], .hang]
    Sends s 0 (if s.mode = .command then 1 else 2) ∧ Delivers s 0 1 [0x0D#8] ∧ ReachesRead s 1 1 ∧ s.readDraw 1 = .hang ∧
    ¬(0x0D#8 &&& 0xC0#8 = 0xC0#8 ∧ (((0x0D#8).extractLsb' 2 3).toNat = 2 ∨ ((0x0D#8).extractLsb' 2 3).toNat = 3)) := by
  decide +kernel

/-- HungReadIsStuck: SEARCH's own read hangs, the recovery's read after a bad echo, and a turn of ENUMERATE's loop. -/
theorem test_witness_hung_search :
    (let s := lab .command zeroCodes [.arrive [0xCD#8], .hang]
    Sends s 1 23 ∧ Delivers s 0 1 [0xCD#8] ∧ 0xCD#8 &&& 0xC0#8 = 0xC0#8 ∧
    ((0xCD#8).extractLsb' 2 3).toNat = ChipVersion.ds2480b.code ∧ s.readDraw 1 = .hang ∧
    (match searchBody s.enum.tree s.enum.pos.toNat s with
      | .hung _ => true
      | _ => false) = true) ∧
    let s := lab .command zeroCodes [.arrive [0xCD#8], .arrive (0xEF#8 :: frameR1), .hang]
    Sends s 1 23 ∧ Delivers s 1 17 (0xEF#8 :: frameR1) ∧ 0xEF#8 &&& 0xF0#8 ≠ 0xF0#8 ∧ ReachesRead s 2 2 ∧
    s.readDraw 2 = .hang := by decide +kernel

/-- EveryInstructionHasItsFrame and AtMostOneRecovery: an instruction of each kind that ends in a next state, and one that
ends stuck. -/
theorem test_witness_frameRule :
    (reply (exec .crcRead State.reset)).isSome = true ∧ writesCrc .crcRead = false ∧ writesParser .crcRead = false ∧
    usesNoTransport .crcRead = true ∧ (∀ p, Instr.crcRead ≠ .configure p) ∧ Instr.crcRead ≠ .enumerate ∧
    stuck (exec .resetBus (lab .command zeroCodes [.hang])) = true :=
  ⟨by decide +kernel, rfl, rfl, rfl, fun _ => by simp, by simp, by decide +kernel⟩

end Sys2Proof.Tests
end

section
/-! PROOFS. The step and the head of the queue: what the host port hands over, and what the step does with it. -/

namespace Sys2Proof.Proofs
open Sys2Proof Sys2Proof.Machine

/-- With an empty queue there is nothing to take. -/
theorem fetch_of_queue_nil {s : State} (hq : s.queue = []) : fetch s = none := by
  simp only [fetch, hq]

/-- Taking an item removes exactly the head of the queue (20_memory R65). -/
theorem fetch_of_queue_cons {s : State} {item : Item} {rest : List Item} (hq : s.queue = item :: rest) :
    fetch s = some (item, s.setQueue rest) := by
  simp only [fetch, hq]

/-- A block with nothing to do waits for its host (70_reset_and_hazards R291). -/
theorem step_of_queue_nil {s : State} (hq : s.queue = []) : step s = .next s := by
  simp only [step, fetch_of_queue_nil hq]

/-- An accepted item runs as the instruction it decodes to, and that instruction no longer sees it in the queue. -/
theorem step_of_decode_ok {s : State} {item : Item} {rest : List Item} {i : Instr}
    (hq : s.queue = item :: rest) (hd : decode item = .ok i) : step s = exec i (s.setQueue rest) := by
  simp only [step, fetch_of_queue_cons hq, hd]

/-- A rejected item is refused for the decoder's own reason (30_encoding R104). -/
theorem step_of_decode_error {s : State} {item : Item} {rest : List Item} {e : DecodeError}
    (hq : s.queue = item :: rest) (hd : decode item = .error e) : step s = .refused (refusalOf e) := by
  simp only [step, fetch_of_queue_cons hq, hd]

/-- Settles O1: one case per branch of the step, by its equation there. -/
theorem stepRunsTheDecodedInstruction : Obligations.StepRunsTheDecodedInstruction := by
  intro s item rest
  refine ⟨step_of_queue_nil, fun hq => ⟨fun i hd => ?accepted, fun e hd => ?rejected⟩⟩
  case accepted => exact step_of_decode_ok hq hd
  case rejected => exact step_of_decode_error hq hd

end Sys2Proof.Proofs
end

section
/-! PROOFS. The kinds of instruction: those that use no transport, and those that run one transport operation of the frame
unit or the sequencer, once the block is configured. -/

namespace Sys2Proof.Proofs
open Sys2Proof Sys2Proof.Machine

/-! ### Outcomes and pieces, by the state they end in -/

/-- `P` holds of the state an outcome leaves, next or stuck. -/
def Leaves (P : State → Prop) : Host.Outcome State Fault Refusal → Prop
  | .next t => P t
  | .fault (.hung t) => P t
  | .refused _ => True

/-- What every end of an operation's body has, the operation's outcome has, when giving the response keeps it. -/
theorem configured_leaves {P : State → Prop} {r : State → Ran Result} {s : State} (h : RanAll P (r s))
    (hP : ∀ t x, P t → P (t.respond x)) : Leaves P (configured r s) := by
  unfold configured
  split
  · cases hr : r s <;> rw [hr] at h
    case ok => exact hP _ _ h
    case err => exact hP _ _ h
    case hung => exact h
  · trivial

theorem ranAll_mono {α : Type} {P Q : State → Prop} {r : Ran α} (h : RanAll P r) (hPQ : ∀ t, P t → Q t) : RanAll Q r := by
  cases r <;> exact hPQ _ h

theorem keepsRegisters_of_carries {n : Nat} {s t : State} (h : Carries n s t) : KeepsRegisters s t :=
  ⟨h.crcAcc, h.prs, h.cfgValid, h.cfg, h.enum, h.encVariant, h.queue⟩

theorem ranAll_keepsRegisters {α : Type} {a b : Nat} {s : State} {r : Ran α} (h : RanCarries a b s r) :
    RanAll (KeepsRegisters s) r := by
  cases r with
  | ok x t => exact keepsRegisters_of_carries (show Carries a s t from h)
  | err e t => exact keepsRegisters_of_carries h.2
  | hung t => exact keepsRegisters_of_carries (show Carries b s t from h)

theorem bind_eq_ok {α β : Type} {r : Ran α} {k : α → State → Ran β} {b : β} {t : State} (h : r.bind k = .ok b t) :
    ∃ a u, r = .ok a u ∧ k a u = .ok b t := by
  cases r with
  | ok a u => exact ⟨a, u, rfl, h⟩
  | err e u => cases h
  | hung u => cases h

/-- Legality is a matter of the kept registers alone. -/
theorem legal_of_keepsRegisters {s t : State} (h : s.Legal) (k : KeepsRegisters s t) : t.Legal := by
  obtain ⟨-, hprs, hvalid, hcfg, henum, -, -⟩ := k
  rw [State.Legal, hprs, hvalid, hcfg, henum]
  exact h

/-! ### The kinds of instruction -/

/-- The bodies of the transport operations that make at most one search: they write no cursor (10_state R40). -/
inductive FrameBody : (State → Ran Result) → Prop
  | transact (m : Mode) (tx : List Byte) (n : Nat) : FrameBody (transactBytes m tx n)
  | detect : FrameBody fun s => (detectBody s).bind fun p s => .ok (.present p) s
  | reset : FrameBody resetBody
  | search (t : Word) (last : Nat) : FrameBody fun s => (searchBody t last s).bind fun r s => .ok (.decoded r.1 r.2) s
  | resetCheck (y : Byte) : FrameBody (checkReset y)
  | echoCheck (y : Byte) : FrameBody fun s => (checkEcho y s).bind fun _ s => .ok .none s
  | bitEcho (y : Byte) : FrameBody fun s => .ok (.echo (echoMatches y (bitWriteByte s.cfg.speed))) s

/-- How an instruction runs. -/
inductive Kind (i : Instr) : Prop
  /-- Without the transport. -/
  | noTransport (h : usesNoTransport i = true)
  /-- An operand outside its domain, in every state. -/
  | refuses (r : Refusal) (h : ∀ s, exec i s = .refused r)
  /-- One transport operation, once the block is configured. -/
  | transacts {r : State → Ran Result} (hr : FrameBody r) (h : ∀ s, exec i s = configured r s)
  /-- ENUMERATE. -/
  | enumerates (h : i = .enumerate)

/-- An instruction that checks an operand before its transport operation. -/
theorem Kind.guarded {i : Instr} {p : Prop} [Decidable p] {r : State → Ran Result} {e : Refusal} (hr : FrameBody r)
    (h : ∀ s, exec i s = if p then configured r s else .refused e) : Kind i := by
  by_cases hp : p
  · exact .transacts hr fun s => by rw [h, if_pos hp]
  · exact .refuses e fun s => by rw [h, if_neg hp]

theorem kind_of_instr (i : Instr) : Kind i := by
  cases i with
  | markData | markCommand | searchRom | cfgRead _ | cfgWriteSlew _ | cfgWritePdur _ | cfgWriteW1lt _ | cfgWriteW0rt _
  | cfgWriteLoad _ | xact _ _ _ | txrx _ _ => exact .transacts (.transact _ _ _) fun _ => rfl
  | owReset _ | srchAccOn _ | srchAccOff _ | bitWrite _ | cfgWriteSpud _ | cfgWriteBaud _ =>
    exact .guarded (.transact _ _ _) fun _ => rfl
  | resetResponse y => exact .transacts (.resetCheck y) fun _ => rfl
  | searchEcho y => exact .transacts (.echoCheck y) fun _ => rfl
  | bitWriteEcho y => exact .transacts (.bitEcho y) fun _ => rfl
  | detect => exact .transacts .detect fun _ => rfl
  | resetBus => exact .transacts .reset fun _ => rfl
  | search t last => exact .guarded (.search t last) fun _ => rfl
  | enumerate => exact .enumerates rfl
  | crcClr | crcBit _ | crcByte _ | crcRead | crcSeq _ | crcSeqr _ | crcStream _ | addrMake _ _ | addrFromBytes _
  | addrFromSearch _ | addrToBytes _ | addrFields _ | addrParse _ | addrRender _ | encSearch _ _ | decSearch _ | prsClr
  | prsBit _ | prsByte _ | prsRead | prsStream _ | configure _ => exact .noTransport rfl

end Sys2Proof.Proofs
end

section
/-! PROOFS. What an instruction of each kind can do to the registers, hence the frame of every instruction (10_state R22 to R32,
R40 to R43) and the invariant of the step (R25, R28 to R30, R41 to R43). -/

namespace Sys2Proof.Proofs
open Sys2Proof Sys2Proof.Machine

/-! ### Without the transport -/

/-- What an instruction that uses no transport can do: give a response, after writing at most one unit's registers. -/
inductive LocalEffect (i : Instr) (s : State) : State → Prop
  | answers (x : Response) : LocalEffect i s (s.respond x)
  | crc (h : writesCrc i = true) (c : Byte) (x : Response) : LocalEffect i s ((s.setCrc c).respond x)
  | parser (h : writesParser i = true) (p : Parser) (hp : s.prs.Legal → p.Legal) (x : Response) :
    LocalEffect i s ((s.setPrs p).respond x)
  | session (p : CfgRecord) (h : i = .configure p) (c : Session) (hc : c.Legal) (x : Response) :
    LocalEffect i s ((s.setSession c).respond x)

/-- It goes on with such an effect or is refused; it never hangs. -/
def LocalOutcome (i : Instr) (s : State) : Host.Outcome State Fault Refusal → Prop
  | .next t => LocalEffect i s t
  | .fault _ => False
  | .refused _ => True

theorem answer_local (i : Instr) (r : Except Err Result) (s : State) : LocalOutcome i s (answer r s) := by
  cases r <;> exact LocalEffect.answers _

/-- Bytes within the capacity keep the parser legal. -/
theorem feedBytes_legal {p : Parser} (h : p.Legal) (rs : List Byte) (hi : p.idx.toNat + 8 * rs.length ≤ 128) :
    (rs.foldl Parser.feedByte p).Legal := by
  induction rs generalizing p with
  | nil => exact h
  | cons x xs ih =>
    simp only [List.length_cons] at hi
    have hroom : ¬ p.idx > 120#8 := by bv_omega
    refine ih (feedByte_legal h hroom x) ?_
    rw [feedByte_idx, BitVec.toNat_add, BitVec.toNat_ofNat]
    omega

theorem execCrcStream_local (xs : List Byte) (s : State) : LocalOutcome (.crcStream xs) s (execCrcStream xs s) := by
  obtain ⟨r, hr⟩ := forEachByte_crcByte xs ((s.setCrc 0x00#8).respond (.result .none))
  simp only [execCrcStream, execCrcClr, done, andThen, hr]
  exact LocalEffect.crc rfl _ _

theorem execPrsStream_local (rs : List Byte) (s : State) : LocalOutcome (.prsStream rs) s (execPrsStream rs s) := by
  unfold execPrsStream
  split
  next hlen =>
    have hroom : Parser.start.idx.toNat + 8 * rs.length ≤ 128 := by rw [hlen]; decide
    obtain ⟨r, hr⟩ := forEachByte_prsByte rs ((s.setPrs Parser.start).respond (.result .none)) hroom
    simp only [execPrsClr, done, andThen, hr]
    exact LocalEffect.parser rfl _ (fun _ => feedBytes_legal start_legal rs hroom) _
  next => trivial

theorem execPrsBit_local (b : Bool) (s : State) : LocalOutcome (.prsBit b) s (execPrsBit b s) := by
  unfold execPrsBit
  split
  next => trivial
  next hroom => exact LocalEffect.parser rfl _ (fun h => feedBit_legal h (by simpa [Parser.done] using hroom) b) _

theorem execPrsByte_local (x : Byte) (s : State) : LocalOutcome (.prsByte x) s (execPrsByte x s) := by
  unfold execPrsByte
  split
  next => trivial
  next hroom => exact LocalEffect.parser rfl _ (fun h => feedByte_legal h hroom x) _

theorem execConfigure_local (p : CfgRecord) (s : State) : LocalOutcome (.configure p) s (execConfigure p s) := by
  unfold execConfigure
  split
  next => exact LocalEffect.answers _
  next hlegal => exact LocalEffect.session p rfl _ (sessionOf_legal hlegal) _

theorem execAddrMake_local (fam : Byte) (ser : List Byte) (s : State) :
    LocalOutcome (.addrMake fam ser) s (execAddrMake fam ser s) := by
  unfold execAddrMake
  split
  · exact LocalEffect.answers _
  · trivial

theorem execEncSearch_local (t : Word) (last : Nat) (s : State) :
    LocalOutcome (.encSearch t last) s (execEncSearch t last s) := by
  unfold execEncSearch
  split
  · exact LocalEffect.answers _
  · trivial

theorem execDecSearch_local (rs : List Byte) (s : State) : LocalOutcome (.decSearch rs) s (execDecSearch rs s) := by
  unfold execDecSearch
  split
  · exact LocalEffect.answers _
  · trivial

/-- What every instruction that uses no transport does (10_state R22 to R31). -/
theorem exec_local {i : Instr} (hi : usesNoTransport i = true) (s : State) : LocalOutcome i s (exec i s) := by
  cases i with
  | crcRead | crcSeq _ | crcSeqr _ | addrToBytes _ | addrFields _ | addrRender _ | prsRead => exact LocalEffect.answers _
  | addrFromBytes _ | addrFromSearch _ | addrParse _ => exact answer_local _ _ s
  | addrMake fam ser => exact execAddrMake_local fam ser s
  | encSearch t last => exact execEncSearch_local t last s
  | decSearch rs => exact execDecSearch_local rs s
  | crcClr | crcBit _ | crcByte _ => exact LocalEffect.crc rfl _ _
  | crcStream xs => exact execCrcStream_local xs s
  | prsClr => exact LocalEffect.parser rfl _ (fun _ => start_legal) _
  | prsBit b => exact execPrsBit_local b s
  | prsByte x => exact execPrsByte_local x s
  | prsStream rs => exact execPrsStream_local rs s
  | configure p => exact execConfigure_local p s
  | _ => cases hi

theorem LocalEffect.legal {i : Instr} {s t : State} (h : LocalEffect i s t) (hs : s.Legal) : t.Legal := by
  obtain ⟨hprs, hcfg, henum⟩ := hs
  cases h with
  | answers x => exact ⟨hprs, hcfg, henum⟩
  | crc _ c x => exact ⟨hprs, hcfg, henum⟩
  | parser _ p hp x => exact ⟨hp hprs, hcfg, henum⟩
  | session _ _ c hc x => exact ⟨hprs, fun _ => hc, henum⟩

/-! ### With the transport: one operation -/

/-- One transport operation leaves every register but MODE and LIVE_BAUD. -/
theorem FrameBody.keepsRegisters {r : State → Ran Result} (h : FrameBody r) (s : State) :
    RanAll (KeepsRegisters s) (r s) := by
  cases h with
  | transact m tx n => exact ranAll_keepsRegisters (transactBytes_carries m tx n s)
  | detect => exact ranAll_keepsRegisters ((detectBody_carries s).map _)
  | reset => exact ranAll_keepsRegisters (resetBody_carries s)
  | search t last => exact ranAll_keepsRegisters ((searchBody_carries t last s).map fun r => Result.decoded r.1 r.2)
  | resetCheck y => exact ranAll_keepsRegisters (checkReset_carries y s)
  | echoCheck y => exact ranAll_keepsRegisters ((checkEcho_carries y s).map _)
  | bitEcho y => exact keepsRegisters_of_carries (Carries.refl s)

/-- A search that goes on has run no recovery. -/
theorem searchBody_ok_carries {w : Word} {last : Nat} {s t : State} {r : Word × Nat} (h : searchBody w last s = .ok r t) :
    Carries 0 s t := by
  have hc := searchBody_carries w last s
  rw [h] at hc
  exact hc

theorem carries_setEnum {n : Nat} {s t : State} (h : Carries n s t) (e : Cursor) : Carries n (s.setEnum e) (t.setEnum e) :=
  ⟨h.crcAcc, h.prs, h.cfgValid, h.cfg, rfl, h.encVariant, h.queue, h.response, h.history⟩

theorem carries_but_cursor {n : Nat} {s t : State} (h : Carries n s t) : Carries n (s.setEnum t.enum) t :=
  ⟨h.crcAcc, h.prs, h.cfgValid, h.cfg, rfl, h.encVariant, h.queue, h.response, h.history⟩

/-! ### ENUMERATE's loop, turn by turn (44_enumerate R240 to R242). -/

/-- The loop's own test, on the cursor a turn leaves (44_enumerate R241). -/
abbrev EnumEnds (c : Cursor) : Prop := c.pos = 64#7 ∨ c.iter = 64#7

/-- The state after a turn whose search went on to `u` with `r`. -/
def afterTurn (u : State) (r : Word × Nat) : State := u.setEnum (u.enum.after r.1 r.2)

section
variable {fuel : Nat} {s u : State} {r : Word × Nat} {e : Err}

theorem enumLoop_last (hb : searchBody s.enum.tree s.enum.pos.toNat s = .ok r u) (h : EnumEnds (u.enum.after r.1 r.2)) :
    enumLoop (fuel + 1) s = .ok (.addrs (u.enum.after r.1 r.2).list) (afterTurn u r) := by
  rw [enumLoop, hb]
  exact if_pos h

theorem enumLoop_turn (hb : searchBody s.enum.tree s.enum.pos.toNat s = .ok r u) (h : ¬ EnumEnds (u.enum.after r.1 r.2)) :
    enumLoop (fuel + 1) s = enumLoop fuel (afterTurn u r) := by
  rw [enumLoop, hb]
  exact if_neg h

theorem enumLoop_err (hb : searchBody s.enum.tree s.enum.pos.toNat s = .err e u) : enumLoop (fuel + 1) s = .err e u := by
  rw [enumLoop, hb]
  rfl

theorem enumLoop_hung (hb : searchBody s.enum.tree s.enum.pos.toNat s = .hung u) : enumLoop (fuel + 1) s = .hung u := by
  rw [enumLoop, hb]

end

/-- But for the cursor, the loop of ENUMERATE carries the state as one search does: only the search that ends it can have
run the recovery. -/
theorem enumLoop_carries (fuel : Nat) (s : State) :
    RanAll (fun t => Carries 1 (s.setEnum t.enum) t) (enumLoop fuel s) := by
  induction fuel generalizing s with
  | zero => exact (Carries.refl s).mono (by omega)
  | succ fuel ih =>
    have hsearch := searchBody_carries s.enum.tree s.enum.pos.toNat s
    cases hb : searchBody s.enum.tree s.enum.pos.toNat s with
    | ok r u =>
      have hu (c : Cursor) : Carries 0 (s.setEnum c) (u.setEnum c) := carries_setEnum (searchBody_ok_carries hb) c
      by_cases hend : EnumEnds (u.enum.after r.1 r.2)
      · rw [enumLoop_last hb hend]
        exact (hu _).mono (by omega)
      · rw [enumLoop_turn hb hend]
        exact ranAll_mono (ih _) fun t ht => (hu t.enum).after ht
    | err e u =>
      rw [hb] at hsearch
      rw [enumLoop_err hb]
      exact carries_but_cursor hsearch.2
    | hung u =>
      rw [hb] at hsearch
      rw [enumLoop_hung hb]
      exact carries_but_cursor hsearch

/-- The position a search finds is 64 or below (42_search_codec R165). -/
theorem searchBody_pos_le {w : Word} {last : Nat} {s t : State} {r : Word × Nat} (h : searchBody w last s = .ok r t) :
    r.2 ≤ 64 := by
  unfold searchBody at h
  obtain ⟨_, u, -, h⟩ := bind_eq_ok h
  obtain ⟨rx, u, -, h⟩ := bind_eq_ok h
  obtain ⟨_, u, -, h⟩ := bind_eq_ok h
  cases h
  exact decodeSearch_le _

/-- The loop of ENUMERATE keeps a legal state legal: its counter and ENUM_ITER share the 64 searches (44_enumerate R241). -/
theorem enumLoop_legal (fuel : Nat) {s : State} (hs : s.Legal) (hfuel : s.enum.iter.toNat + fuel ≤ 64) :
    RanAll State.Legal (enumLoop fuel s) := by
  induction fuel generalizing s with
  | zero => exact hs
  | succ fuel ih =>
    have hkeep := ranAll_keepsRegisters (searchBody_carries s.enum.tree s.enum.pos.toNat s)
    cases hb : searchBody s.enum.tree s.enum.pos.toNat s with
    | ok r u =>
      rw [hb] at hkeep
      obtain ⟨hprs, hcfg, hcursor⟩ := legal_of_keepsRegisters hs hkeep
      have huiter : u.enum.iter.toNat = s.enum.iter.toNat := by rw [(searchBody_ok_carries hb).enum]
      obtain ⟨hafter, hiter⟩ := after_legal hcursor (by omega) r.1 r.2 (searchBody_pos_le hb)
      have hturn : (afterTurn u r).Legal := ⟨hprs, hcfg, hafter⟩
      by_cases hend : EnumEnds (u.enum.after r.1 r.2)
      · rw [enumLoop_last hb hend]
        exact hturn
      · rw [enumLoop_turn hb hend]
        exact ih hturn (by rw [afterTurn, State.setEnum_enum]; omega)
    | err e u =>
      rw [hb] at hkeep
      rw [enumLoop_err hb]
      exact legal_of_keepsRegisters hs hkeep
    | hung u =>
      rw [hb] at hkeep
      rw [enumLoop_hung hb]
      exact legal_of_keepsRegisters hs hkeep

theorem enumBody_legal {s : State} (hs : s.Legal) : RanAll State.Legal (enumBody s) :=
  enumLoop_legal 64 ⟨hs.1, hs.2.1, cursor_start_legal⟩ (by simp [Cursor.start])

theorem enumBody_keepsRegisters (s : State) : RanAll (fun t => KeepsRegisters (s.setEnum t.enum) t) (enumBody s) :=
  ranAll_mono (enumLoop_carries 64 _) fun _ ht => keepsRegisters_of_carries ht

/-! ### The frame of every instruction -/

/-- Every instruction with a transport operation leaves every register but MODE, LIVE_BAUD and, for ENUMERATE, the cursor. -/
theorem exec_transport_keeps {i : Instr} (hi : usesNoTransport i = false) (s : State) :
    Leaves (fun t => KeepsRegisters (s.setEnum t.enum) t ∧ (i ≠ .enumerate → t.enum = s.enum)) (exec i s) := by
  cases kind_of_instr i with
  | noTransport h => rw [h] at hi; cases hi
  | refuses e h => rw [h]; trivial
  | transacts hr h =>
    rw [h]
    refine configured_leaves (ranAll_mono (hr.keepsRegisters s) fun t ht => ?_) fun _ _ k => k
    obtain ⟨hcrc, hprs, hvalid, hcfg, henum, hvariant, hqueue⟩ := ht
    exact ⟨⟨hcrc, hprs, hvalid, hcfg, rfl, hvariant, hqueue⟩, fun _ => henum⟩
  | enumerates h =>
    subst h
    exact configured_leaves (ranAll_mono (enumBody_keepsRegisters s) fun t ht => ⟨ht, fun hne => absurd rfl hne⟩) fun _ _ k => k

/-- Settles O57, by kind: an instruction without the transport writes at most one unit's registers, and one with it leaves
every unit's but the cursor. -/
theorem everyInstructionHasItsFrame : Obligations.EveryInstructionHasItsFrame := by
  intro i s t ht
  cases hi : usesNoTransport i with
  | true =>
    have heffect := exec_local hi s
    rw [ht] at heffect
    cases heffect with
    | answers x => simp [SameTransport]
    | crc hw c x => simp [hw, SameTransport]
    | parser hw p _ x => simp [hw, SameTransport]
    | session p hp c _ x => simp [hp, SameTransport]
  | false =>
    have hkeep := exec_transport_keeps hi s
    rw [ht] at hkeep
    obtain ⟨⟨hcrc, hprs, hvalid, hcfg, -, hvariant, hqueue⟩, henum⟩ := hkeep
    exact ⟨fun _ => hcrc, fun _ => hprs, fun _ => ⟨hvalid, hcfg⟩, henum, nofun, hvariant, hqueue⟩

/-! ### The invariant of the step -/

theorem exec_legal (i : Instr) {s : State} (hs : s.Legal) : Leaves State.Legal (exec i s) := by
  cases kind_of_instr i with
  | noTransport h =>
    have heffect := exec_local h s
    cases hx : exec i s <;> rw [hx] at heffect
    case next => exact heffect.legal hs
    case fault => exact heffect.elim
    case refused => trivial
  | refuses e h => rw [h]; trivial
  | transacts hr h =>
    rw [h]
    exact configured_leaves (ranAll_mono (hr.keepsRegisters s) fun t => legal_of_keepsRegisters hs) fun _ _ k => k
  | enumerates h => subst h; exact configured_leaves (enumBody_legal hs) fun _ _ k => k

/-- Taking an item touches no register, so the step is legal as the instruction is. -/
theorem step_legal {s : State} (hs : s.Legal) : Leaves State.Legal (step s) := by
  cases hq : s.queue with
  | nil => rw [step_of_queue_nil hq]; exact hs
  | cons item rest =>
    cases hd : decode item with
    | ok i => rw [step_of_decode_ok hq hd]; exact exec_legal i (s := s.setQueue rest) hs
    | error e => rw [step_of_decode_error hq hd]; trivial

/-- Settles O10: every instruction keeps legality, and so does taking it from the queue. -/
theorem stepKeepsLegalValues : Obligations.StepKeepsLegalValues := by
  intro s hs
  have h := step_legal hs
  refine ⟨fun t ht => ?_, fun t ht => ?_⟩
  · rw [ht] at h; exact h
  · rw [ht] at h; exact h

/-- Settles O9: the parser and the cursor start legal, and no session is configured. -/
theorem resetIsLegal : Obligations.ResetIsLegal :=
  ⟨start_legal, nofun, cursor_start_legal⟩

end Sys2Proof.Proofs
end

section
/-! PROOFS. What an instruction cannot see: a change of the state that the units do not read commutes with every operation
that uses no transport, and a transaction's flush forgets the pending input (10_state R28 to R31, R45, 70_reset_and_hazards
R290, R303). -/

namespace Sys2Proof.Proofs
open Sys2Proof Sys2Proof.Machine

/-! ### Changes that the units without the transport do not see -/

theorem seenThrough_seenThrough (f g : State → State) (o : Host.Outcome State Fault Refusal) :
    seenThrough f (seenThrough g o) = seenThrough (fun t => f (g t)) o := by
  rcases o with t | ⟨t⟩ | r <;> rfl

/-- `g` changes nothing that these units read, and commutes with everything they write. -/
structure Unseen (g : State → State) : Prop where
  crcAcc (s : State) : (g s).crcAcc = s.crcAcc
  prs (s : State) : (g s).prs = s.prs
  encVariant (s : State) : (g s).encVariant = s.encVariant
  setCrc (s : State) (c : Byte) : (g s).setCrc c = g (s.setCrc c)
  setPrs (s : State) (p : Parser) : (g s).setPrs p = g (s.setPrs p)
  setSession (s : State) (c : Session) : (g s).setSession c = g (s.setSession c)
  respond (s : State) (x : Response) : (g s).respond x = g (s.respond x)

/-- The operation does not see `g`: it ends as without it, and `g` can be made afterwards. -/
def Ignores (g : State → State) (op : State → Host.Outcome State Fault Refusal) : Prop :=
  ∀ s, op (g s) = seenThrough g (op s)

theorem Ignores.andThen {g : State → State} {op k : State → Host.Outcome State Fault Refusal} (hop : Ignores g op)
    (hk : Ignores g k) : Ignores g fun s => andThen (op s) k := by
  intro s
  simp only [hop s]
  rcases op s with t | ⟨t⟩ | r
  · exact hk t
  · rfl
  · rfl

theorem Ignores.forEachByte {g : State → State} {op : Byte → State → Host.Outcome State Fault Refusal}
    (hop : ∀ x, Ignores g (op x)) (xs : List Byte) : Ignores g (forEachByte op xs) := by
  induction xs with
  | nil => exact fun _ => rfl
  | cons x xs ih => exact (hop x).andThen ih

section
variable {g : State → State} (hg : Unseen g)
include hg

theorem done_ignores (r : Result) : Ignores g (done r) := by
  intro s
  simp only [done, hg.respond, seenThrough]

theorem answer_ignores (r : Except Err Result) : Ignores g (answer r) := by
  intro s
  cases r <;> simp only [answer, hg.respond, seenThrough]

theorem done_setCrc (r : Result) (c : Byte) (s : State) :
    done r ((g s).setCrc c) = seenThrough g (done r (s.setCrc c)) := by
  rw [hg.setCrc, done_ignores hg]

theorem done_setPrs (r : Result) (p : Parser) (s : State) :
    done r ((g s).setPrs p) = seenThrough g (done r (s.setPrs p)) := by
  rw [hg.setPrs, done_ignores hg]

theorem execCrcClr_ignores : Ignores g execCrcClr := done_setCrc hg _ _

theorem execPrsClr_ignores : Ignores g execPrsClr := done_setPrs hg _ _

theorem execCrcByte_ignores (x : Byte) : Ignores g (execCrcByte x) := by
  intro s
  rw [execCrcByte, hg.crcAcc, done_setCrc hg, execCrcByte]

theorem execCrcRead_ignores : Ignores g execCrcRead := by
  intro s
  rw [execCrcRead, hg.crcAcc, done_ignores hg, execCrcRead]

theorem execCrcStream_ignores (xs : List Byte) : Ignores g (execCrcStream xs) :=
  (execCrcClr_ignores hg).andThen ((Ignores.forEachByte (execCrcByte_ignores hg) xs).andThen (execCrcRead_ignores hg))

theorem execPrsByte_ignores (x : Byte) : Ignores g (execPrsByte x) := by
  intro s
  simp only [execPrsByte, hg.prs, done_setPrs hg]
  split <;> rfl

theorem execPrsRead_ignores : Ignores g execPrsRead := by
  intro s
  rw [execPrsRead, hg.prs, done_ignores hg, execPrsRead]

theorem execPrsStream_ignores (rs : List Byte) : Ignores g (execPrsStream rs) := by
  have hrun := (execPrsClr_ignores hg).andThen
    ((Ignores.forEachByte (execPrsByte_ignores hg) rs).andThen (execPrsRead_ignores hg))
  intro s
  unfold execPrsStream
  split
  · exact hrun s
  · rfl

theorem execConfigure_ignores (p : CfgRecord) : Ignores g (execConfigure p) := by
  intro s
  unfold execConfigure
  split
  · simp only [hg.respond, seenThrough]
  · rw [hg.setSession, done_ignores hg]

/-- No instruction that uses no transport sees such a change. -/
theorem exec_ignores {i : Instr} (hi : usesNoTransport i = true) : Ignores g (exec i) := by
  intro s
  cases i with
  | crcClr => exact execCrcClr_ignores hg s
  | crcBit b => simp only [exec, execCrcBit, hg.crcAcc, done_setCrc hg]
  | crcByte x => exact execCrcByte_ignores hg x s
  | crcRead => exact execCrcRead_ignores hg s
  | crcStream xs => exact execCrcStream_ignores hg xs s
  | crcSeq _ | crcSeqr _ | addrToBytes _ | addrFields _ | addrRender _ => exact done_ignores hg _ s
  | addrFromBytes _ | addrFromSearch _ | addrParse _ => exact answer_ignores hg _ s
  | addrMake fam ser =>
    simp only [exec, execAddrMake, done_ignores hg _ s]
    split <;> rfl
  | encSearch t last =>
    simp only [exec, execEncSearch, hg.encVariant, done_ignores hg _ s]
    split <;> rfl
  | decSearch rs =>
    simp only [exec, execDecSearch, done_ignores hg _ s]
    split <;> rfl
  | prsClr => exact execPrsClr_ignores hg s
  | prsBit b =>
    simp only [exec, execPrsBit, hg.prs, done_setPrs hg]
    split <;> rfl
  | prsByte x => exact execPrsByte_ignores hg x s
  | prsRead => exact execPrsRead_ignores hg s
  | prsStream rs => exact execPrsStream_ignores hg rs s
  | configure p => exact execConfigure_ignores hg p s
  | _ => cases hi

end

/-! ### The session registers before CONFIGURE -/

/-- Other session registers, as long as they hold no value (10_state R28). -/
def withUnconfigured (c : Session) (s : State) : State := if s.cfgValid then s else { s with cfg := c }

theorem withUnconfigured_unseen (c : Session) : Unseen (withUnconfigured c) := by
  constructor
  case setSession =>
    intro s d
    cases hv : s.cfgValid <;> simp [withUnconfigured, hv, State.setSession]
  all_goals
    intro s
    cases hv : s.cfgValid <;> simp [withUnconfigured, hv, State.setCrc, State.setPrs, State.respond]

theorem withUnconfigured_of_not_valid {s : State} (hv : s.cfgValid = false) (c : Session) :
    withUnconfigured c s = { s with cfg := c } := by
  simp [withUnconfigured, hv]

theorem hideSession_withUnconfigured (c : Session) (s : State) : hideSession (withUnconfigured c s) = hideSession s := by
  cases hv : s.cfgValid <;> simp [hideSession, withUnconfigured, hv]

/-- An unconfigured block refuses the transport operations before it looks at the session registers (43_frame_mode R199). -/
theorem exec_unconfigured {i : Instr} (hi : usesNoTransport i = false) :
    ∃ e, ∀ s : State, s.cfgValid = false → exec i s = .refused e := by
  cases kind_of_instr i with
  | noTransport h => rw [h] at hi; cases hi
  | refuses e h => exact ⟨e, fun s _ => h s⟩
  | transacts _ h => exact ⟨.unconfigured, fun s hv => by rw [h, configured_neg hv]⟩
  | enumerates h => subst h; exact ⟨.unconfigured, fun s hv => configured_neg hv _⟩

theorem hideSession_exec {i : Instr} (hi : usesNoTransport i = true) {s : State} (hv : s.cfgValid = false) (c : Session) :
    seenThrough hideSession (exec i { s with cfg := c }) = seenThrough hideSession (exec i s) := by
  rw [← withUnconfigured_of_not_valid hv, exec_ignores (withUnconfigured_unseen c) hi, seenThrough_seenThrough]
  simp only [hideSession_withUnconfigured]

/-- Settles O59: the units without the transport do not read the session, and an unconfigured block refuses the others. -/
theorem unconfiguredSessionIsUnobservable : Obligations.UnconfiguredSessionIsUnobservable := by
  intro i s c d hv
  cases hi : usesNoTransport i with
  | true => rw [hideSession_exec hi hv c, hideSession_exec hi hv d]
  | false =>
    obtain ⟨e, he⟩ := exec_unconfigured hi
    rw [he { s with cfg := c } hv, he { s with cfg := d } hv]

end Sys2Proof.Proofs
end

section
/-! PROOFS. The input pending before an operation (10_state R45, 70_reset_and_hazards R303): every read comes after a flush of
the same operation, and the flush forgets what was pending. -/

namespace Sys2Proof.Proofs
open Sys2Proof Sys2Proof.Machine

/-! ### Pieces of an operation that do not depend on the pending input -/

/-- Two ends of a piece of an operation that differ in the pending input alone. -/
inductive SameRan {α : Type} : Ran α → Ran α → Prop
  | ok (a : α) (t : State) (ys : List Byte) : SameRan (.ok a t) (.ok a (t.setPending ys))
  | err (e : Err) (t : State) (ys : List Byte) : SameRan (.err e t) (.err e (t.setPending ys))
  | hung (t : State) (ys : List Byte) : SameRan (.hung t) (.hung (t.setPending ys))

/-- The piece ends the same whatever input is pending before it. -/
def Blind {α : Type} (r : State → Ran α) : Prop := ∀ s xs, SameRan (r s) (r (s.setPending xs))

theorem SameRan.refl {α : Type} (r : Ran α) : SameRan r r := by
  cases r with
  | ok a t => exact .ok a t t.pending
  | err e t => exact .err e t t.pending
  | hung t => exact .hung t t.pending

theorem SameRan.bind {α β : Type} {r r' : Ran α} {k : α → State → Ran β} (h : SameRan r r') (hk : ∀ a, Blind (k a)) :
    SameRan (r.bind k) (r'.bind k) := by
  cases h with
  | ok a t ys => exact hk a t ys
  | err e t ys => exact .err e t ys
  | hung t ys => exact .hung t ys

theorem blind_ok {α : Type} (a : α) : Blind fun s => .ok a s := fun s xs => .ok a s xs

/-- A flush that succeeds forgets the pending input, and one that fails ends the operation: what follows it may read. -/
theorem txFlush_bind_blind {α : Type} (k : Unit → State → Ran α) : Blind fun s => (txFlush s).bind k := by
  intro s xs
  cases hf : s.flushDraw 0 with
  | true =>
    have hsame : txFlush (s.setPending xs) = txFlush s := by
      rw [txFlush_ok hf, txFlush_ok (s := s.setPending xs) hf]
      rfl
    simp only [hsame]
    exact SameRan.refl _
  | false =>
    simp only [txFlush_err hf, txFlush_err (s := s.setPending xs) hf]
    exact .err _ _ xs

theorem lineControl_blind (event : Bool → Event) : Blind (lineControl event) := by
  intro s xs
  cases hl : s.lineDraw 0 with
  | true =>
    rw [lineControl_ok event hl, lineControl_ok (s := s.setPending xs) event hl]
    exact .ok _ _ xs
  | false =>
    rw [lineControl_err event hl, lineControl_err (s := s.setPending xs) event hl]
    exact .err _ _ xs

/-! ### The transport operations -/

/-- DETECT's body flushes before its one read (43_frame_mode R210). -/
theorem detectBody_blind : Blind detectBody := by
  intro s xs
  refine (lineControl_blind _ (s.setMode .command) xs).bind fun _ s xs => ?_
  refine (lineControl_blind _ s xs).bind fun _ s xs => ?_
  refine (lineControl_blind _ (s.setLiveBaud (.code 0#2)) xs).bind fun _ s xs => ?_
  exact txFlush_bind_blind _ (delay Config.tBreakSettle s) xs

theorem resyncRaise_blind {α : Type} (e : Err) : Blind (resyncRaise e : State → Ran α) := by
  intro s xs
  have hbody := detectBody_blind s xs
  unfold resyncRaise
  generalize detectBody s = r at hbody ⊢
  generalize detectBody (s.setPending xs) = r' at hbody ⊢
  cases hbody with
  | ok _ t ys => exact .err e t ys
  | err _ t ys => exact .err e t ys
  | hung t ys => exact .hung t ys

/-- A transaction flushes before it writes and reads (43_frame_mode R192). -/
theorem transact_blind (m : Mode) (tx : List Byte) (n : Nat) : Blind (transact m tx n) := fun s xs =>
  txFlush_bind_blind (fun _ s' => (txWrite (frameFor m tx s) s').bind fun _ s' => recovered (rxRead n s')) (s.setMode m) xs

theorem checkReset_blind (y : Byte) : Blind (checkReset y) := by
  intro s xs
  unfold checkReset
  split
  · exact resyncRaise_blind _ s xs
  · split
    · exact .ok _ s xs
    · exact resyncRaise_blind _ s xs

theorem checkEcho_blind (y : Byte) : Blind (checkEcho y) := by
  intro s xs
  unfold checkEcho
  split
  · exact resyncRaise_blind _ s xs
  · exact .ok _ s xs

theorem resetBody_blind : Blind resetBody := fun s xs =>
  (transact_blind .command [owResetByte s.cfg.speed] 1 s xs).bind fun _ => checkReset_blind _

theorem searchBody_blind (w : Word) (last : Nat) : Blind (searchBody w last) := by
  intro s xs
  refine (resetBody_blind s xs).bind fun _ s xs => ?_
  refine (transact_blind .data (searchPayload s.cfg.speed (encodeSearch s.encVariant w last)) 17 s xs).bind fun rx s xs => ?_
  exact (checkEcho_blind _ s xs).bind fun _ => blind_ok _

/-- Each turn of ENUMERATE's loop is a search, and the loop's test reads the cursor alone (44_enumerate R240). -/
theorem enumLoop_blind (fuel : Nat) : Blind (enumLoop fuel) := by
  induction fuel with
  | zero => exact fun s xs => .ok _ s xs
  | succ fuel ih =>
    intro s xs
    have hsearch := searchBody_blind s.enum.tree s.enum.pos.toNat s xs
    generalize hb : searchBody s.enum.tree s.enum.pos.toNat s = q at hsearch
    generalize hb' : searchBody s.enum.tree s.enum.pos.toNat (s.setPending xs) = q' at hsearch
    cases hsearch with
    | ok r u ys =>
      by_cases hend : EnumEnds (u.enum.after r.1 r.2)
      · rw [enumLoop_last hb hend, enumLoop_last (s := s.setPending xs) hb' hend]
        exact .ok _ (afterTurn u r) ys
      · rw [enumLoop_turn hb hend, enumLoop_turn (s := s.setPending xs) hb' hend]
        exact ih (afterTurn u r) ys
    | err e u ys =>
      rw [enumLoop_err hb, enumLoop_err (s := s.setPending xs) hb']
      exact .err e u ys
    | hung u ys =>
      rw [enumLoop_hung hb, enumLoop_hung (s := s.setPending xs) hb']
      exact .hung u ys

theorem FrameBody.blind {r : State → Ran Result} (h : FrameBody r) : Blind r := by
  intro s xs
  cases h with
  | transact m tx n => exact (transact_blind m tx n s xs).bind fun _ => blind_ok _
  | detect => exact (detectBody_blind s xs).bind fun _ => blind_ok _
  | reset => exact resetBody_blind s xs
  | search t last => exact (searchBody_blind t last s xs).bind fun _ => blind_ok _
  | resetCheck y => exact checkReset_blind y s xs
  | echoCheck y => exact (checkEcho_blind y s xs).bind fun _ => blind_ok _
  | bitEcho y => exact .ok _ s xs

/-! ### Every instruction -/

/-- An outcome with the input that is pending after it left out. -/
def withoutPending (o : Host.Outcome State Fault Refusal) : Host.Outcome State Fault Refusal :=
  seenThrough (fun t => t.setPending []) o

theorem withoutPending_finish {r r' : Ran Result} (h : SameRan r r') :
    withoutPending (finish r') = withoutPending (finish r) := by
  cases h <;> rfl

theorem withoutPending_configured {r : State → Ran Result} (hr : Blind r) (s : State) (xs : List Byte) :
    withoutPending (configured r (s.setPending xs)) = withoutPending (configured r s) := by
  cases hv : s.cfgValid with
  | true =>
    rw [configured_pos hv, configured_pos (s := s.setPending xs) hv]
    exact withoutPending_finish (hr s xs)
  | false => rw [configured_neg hv, configured_neg (s := s.setPending xs) hv]

theorem setPending_unseen (xs : List Byte) : Unseen (State.setPending · xs) where
  crcAcc _ := rfl
  prs _ := rfl
  encVariant _ := rfl
  setCrc _ _ := rfl
  setPrs _ _ := rfl
  setSession _ _ := rfl
  respond _ _ := rfl

/-- What was pending before an instruction shows in its outcome at most as pending input. -/
theorem withoutPending_exec (i : Instr) (s : State) (xs : List Byte) :
    withoutPending (exec i (s.setPending xs)) = withoutPending (exec i s) := by
  cases kind_of_instr i with
  | noTransport h =>
    rw [exec_ignores (setPending_unseen xs) h s, withoutPending, seenThrough_seenThrough]
    rfl
  | refuses e h => rw [h, h]
  | transacts hr h => rw [h, h, withoutPending_configured hr.blind]
  | enumerates h =>
    subst h
    exact withoutPending_configured (fun s xs => enumLoop_blind 64 (s.setEnum Cursor.start) xs) s xs

/-- Settles O60: with either input pending, the outcome is that of the state itself, up to the pending input. -/
theorem staleInputIsNeverRead : Obligations.StaleInputIsNeverRead := fun i s xs ys =>
  (withoutPending_exec i s xs).trans (withoutPending_exec i s ys).symm

end Sys2Proof.Proofs
end

section
/-! PROOFS. The event history (20_memory R55) and DETECT's body in it (60_exceptions R260, R268): every instruction only adds to
the history, and runs the body at most once. -/

namespace Sys2Proof.Proofs
open Sys2Proof Sys2Proof.Machine

/-- `t` comes after `s` with the history of `s` kept and at most one run of DETECT's body added to it. -/
def AddsAtMostOneRecovery (s t : State) : Prop := ∃ es, t.history = s.history ++ es ∧ detectRuns es ≤ 1

theorem addsAtMostOneRecovery_of_history_eq {s t : State} (h : t.history = s.history) : AddsAtMostOneRecovery s t :=
  ⟨[], by rw [h, List.append_nil], Nat.zero_le 1⟩

/-- An instruction that uses no transport adds nothing: no transport primitive, hence no event (20_memory R55). -/
theorem LocalEffect.history_eq {i : Instr} {s t : State} (h : LocalEffect i s t) : t.history = s.history := by
  cases h with
  | answers x => rfl
  | crc _ c x => rfl
  | parser _ p _ x => rfl
  | session _ _ c _ x => rfl

theorem ranAll_carries {α : Type} {n : Nat} {s : State} {r : Ran α} (h : RanCarries n n s r) : RanAll (Carries n s) r := by
  cases r with
  | ok a t => exact h
  | err e t => exact h.2
  | hung t => exact h

/-- An operation that goes on without a recovery and ends with at most one runs DETECT's body at most once. -/
theorem ranAll_carries_one {α : Type} {s : State} {r : Ran α} (h : RanCarries 0 1 s r) : RanAll (Carries 1 s) r :=
  ranAll_carries (h.mono (by omega) (by omega))

/-- One transport operation runs DETECT's body at most once: as DETECT itself, or as the recovery that ends it. -/
theorem FrameBody.carries_one {r : State → Ran Result} (h : FrameBody r) (s : State) : RanAll (Carries 1 s) (r s) := by
  cases h with
  | transact m tx n => exact ranAll_carries_one (transactBytes_carries m tx n s)
  | detect => exact ranAll_carries ((detectBody_carries s).map _)
  | reset => exact ranAll_carries_one (resetBody_carries s)
  | search t last => exact ranAll_carries_one ((searchBody_carries t last s).map fun r => Result.decoded r.1 r.2)
  | resetCheck y => exact ranAll_carries_one (checkReset_carries y s)
  | echoCheck y => exact ranAll_carries_one ((checkEcho_carries y s).map _)
  | bitEcho y => exact (Carries.refl s).mono (by omega)

theorem exec_addsAtMostOneRecovery (i : Instr) (s : State) : Leaves (AddsAtMostOneRecovery s) (exec i s) := by
  cases kind_of_instr i with
  | noTransport h =>
    have heffect := exec_local h s
    cases hx : exec i s <;> rw [hx] at heffect
    case next => exact addsAtMostOneRecovery_of_history_eq heffect.history_eq
    case fault => exact heffect.elim
    case refused => trivial
  | refuses e h => rw [h]; trivial
  | transacts hr h =>
    rw [h]
    exact configured_leaves (ranAll_mono (hr.carries_one s) fun _ ht => ht.history) fun _ _ k => k
  | enumerates h =>
    subst h
    exact configured_leaves (ranAll_mono (enumLoop_carries 64 _) fun _ ht => ht.history) fun _ _ k => k

/-- Settles O58, by kind: without the transport no event is added, one transport operation ends with its recovery, and in
ENUMERATE only the search that ends the loop can have run one. -/
theorem atMostOneRecovery : Obligations.AtMostOneRecovery := by
  intro i s t ht
  have hadds := exec_addsAtMostOneRecovery i s
  rcases ht with ht | ht
  · rw [ht] at hadds; exact hadds
  · rw [ht] at hadds; exact hadds

end Sys2Proof.Proofs
end

section
/-! PROOFS. The decoder and the encoder (30_encoding R70 to R104): a wire byte is read as exactly the instruction that encodes
to it, what is decoded lies in its domain, and a selector outside the map is refused. -/

namespace Sys2Proof.Proofs
open Sys2Proof Sys2Proof.Machine

/-! ### Wire bytes, by their fixed bits and their field -/

/-- A configuration byte is the fixed bits of its row with the code in bits 3-1 (30_encoding R80, R81). -/
theorem cfgByte_of_base {i : BitVec 3} {base : Byte} (h : i.setWidth 8 <<< 4 ||| 1#8 = base) (c : BitVec 3) :
    cfgByte i c = base ||| (c.setWidth 8 <<< 1) := by
  rw [cfgByte, BitVec.or_assoc, BitVec.or_comm (c.setWidth 8 <<< 1), ← BitVec.or_assoc, h]

theorem cfgReadByte_eq (p : BitVec 3) : cfgReadByte p = 0x01#8 ||| (p.setWidth 8 <<< 1) := BitVec.or_comm _ _

/-- The speed code and the bits around it make the byte again (30_encoding R72). -/
theorem or_speedField (b : Byte) : (b &&& 0xF3#8) ||| ((b.extractLsb' 2 2).setWidth 8 <<< 2) = b := by
  revert b; decide +kernel

/-- The parameter or value code and the bits around it make the byte again (30_encoding R80, R83). -/
theorem or_codeField (b : Byte) : (b &&& 0xF1#8) ||| ((b.extractLsb' 1 3).setWidth 8 <<< 1) = b := by
  revert b; decide +kernel

theorem speedCmd_of_masked {b base : Byte} (h : b &&& 0xF3#8 = base) : speedCmd base (b.extractLsb' 2 2) = b := by
  rw [speedCmd, ← h, or_speedField]

theorem cfgByte_of_masked {b base : Byte} {i : BitVec 3} (h : b &&& 0xF1#8 = base)
    (hi : i.setWidth 8 <<< 4 ||| 1#8 = base) : cfgByte i (b.extractLsb' 1 3) = b := by
  rw [cfgByte_of_base hi, ← h, or_codeField]

theorem cfgReadByte_of_masked {b : Byte} (h : b &&& 0xF1#8 = 0x01#8) : cfgReadByte (b.extractLsb' 1 3) = b := by
  rw [cfgReadByte_eq, ← h, or_codeField]

/-- One row of the decoder's table: its own entry encodes to the byte, and so does what the rest of the table gives. -/
theorem encode_of_row {p : Prop} [Decidable p] {b : Byte} {i j : Instr} {o : Option Instr}
    (h : (if p then some j else o) = some i) (hj : p → encode j = .send b) (ho : o = some i → encode i = .send b) :
    encode i = .send b := by
  split at h
  case isTrue hp => cases h; exact hj hp
  case isFalse => exact ho h

/-- The decoder drops no bit of a wire byte: its row's instruction encodes to the byte, row by row. -/
theorem encode_of_readSend {b : Byte} {i : Instr} (h : readSend b = some i) : encode i = .send b := by
  unfold readSend at h
  refine encode_of_row h (fun hb => congrArg Item.send hb.symm) fun h => ?_
  refine encode_of_row h (fun hb => congrArg Item.send hb.symm) fun h => ?_
  refine encode_of_row h (fun hb => congrArg Item.send (speedCmd_of_masked hb)) fun h => ?_
  refine encode_of_row h (fun hb => congrArg Item.send (speedCmd_of_masked hb)) fun h => ?_
  refine encode_of_row h (fun hb => congrArg Item.send (speedCmd_of_masked hb)) fun h => ?_
  refine encode_of_row h (fun hb => congrArg Item.send (speedCmd_of_masked hb)) fun h => ?_
  refine encode_of_row h (fun hb => congrArg Item.send hb.symm) fun h => ?_
  refine encode_of_row h (fun hb => congrArg Item.send (cfgReadByte_of_masked hb)) fun h => ?_
  refine encode_of_row h (fun hb => congrArg Item.send (cfgByte_of_masked hb rfl)) fun h => ?_
  refine encode_of_row h (fun hb => congrArg Item.send (cfgByte_of_masked hb rfl)) fun h => ?_
  refine encode_of_row h (fun hb => congrArg Item.send (cfgByte_of_masked hb rfl)) fun h => ?_
  refine encode_of_row h (fun hb => congrArg Item.send (cfgByte_of_masked hb rfl)) fun h => ?_
  refine encode_of_row h (fun hb => congrArg Item.send (cfgByte_of_masked hb rfl)) fun h => ?_
  refine encode_of_row h (fun hb => congrArg Item.send (cfgByte_of_masked hb rfl)) fun h => ?_
  refine encode_of_row h (fun hb => congrArg Item.send (cfgByte_of_masked hb rfl)) fun h => ?_
  cases h

/-- The byte of an outgoing row is read as that row, whatever its field holds: no earlier row of the table takes it. -/
theorem readSend_of_encode {b : Byte} {i : Instr} (h : encode i = .send b) : readSend b = some i := by
  cases i with
  | markData | markCommand | searchRom => cases h; decide
  | owReset field | srchAccOn field | srchAccOff field | bitWrite field => cases h; revert field; decide
  | cfgRead field | cfgWriteSlew field | cfgWritePdur field | cfgWriteSpud field | cfgWriteW1lt field | cfgWriteW0rt field
  | cfgWriteLoad field | cfgWriteBaud field => cases h; revert field; decide
  | _ => cases h

/-! ### The decoder, port by port -/

/-- Reading goes on after an operand that was read. -/
@[simp] theorem ok_bind {α β ε : Type} (a : α) (k : α → Except ε β) : (Except.ok a).bind k = k a := rfl

theorem decode_pseudo {p : Pseudo} {ops : List Operand} {i : Instr} (h : readPseudo p ops = .ok i)
    (hw : i.wellFormed = true) : decode (.pseudo p ops) = .ok i := by
  simp [decode, h, inDomain, hw]

/-- Settles O2, port by port: a wire byte is read back row by row, a response byte as it is, and a request or a
pseudo-operation operand by operand. -/
theorem decodeOfEncodeIsTheInstruction : Obligations.DecodeOfEncodeIsTheInstruction := by
  intro i hw
  cases i with
  | markData | markCommand | owReset _ | srchAccOn _ | srchAccOff _ | bitWrite _ | searchRom | cfgRead _ | cfgWriteSlew _
  | cfgWritePdur _ | cfgWriteSpud _ | cfgWriteW1lt _ | cfgWriteW0rt _ | cfgWriteLoad _ | cfgWriteBaud _ =>
    exact decode_send _ _ (readSend_of_encode rfl) hw
  | resetResponse _ | searchEcho _ | bitWriteEcho _ => rfl
  | crcClr | crcBit _ | crcByte _ | crcRead | crcSeq _ | crcSeqr _ | addrMake _ _ | addrFromBytes _ | addrFromSearch _
  | addrToBytes _ | addrFields _ | encSearch _ _ | decSearch _ | prsClr | prsBit _ | prsByte _ | prsRead | configure _
  | xact _ _ _ | detect | resetBus | search _ _ | txrx _ _ | enumerate =>
    exact decode_requestOf _ _ _ (by simp [readOps, Operand.toMode]) hw
  | addrParse _ | addrRender _ | crcStream _ | prsStream _ =>
    exact decode_pseudo (by simp [readPseudo, Operand.toText]) hw

/-- A wire byte that decodes was read in the table, and its operand passed the domain check (30_encoding R95). -/
theorem readSend_of_decode {b : Byte} {i : Instr} (h : decode (.send b) = .ok i) :
    readSend b = some i ∧ i.wellFormed = true := by
  unfold decode at h
  cases hr : readSend b <;> simp only [hr] at h
  case none => cases h
  case some j =>
    obtain ⟨rfl, hw⟩ := inDomain_ok h
    exact ⟨rfl, hw⟩

/-- Settles O3: at every port but the responses', whose rows take every byte, the last thing the decoder does is the domain
check. -/
theorem decodedInstructionsAreInDomain : Obligations.DecodedInstructionsAreInDomain := by
  intro item i h
  cases item with
  | request r =>
    unfold decode at h
    cases hk : selOf r.sel <;> simp only [hk] at h
    case none => cases h
    case some k =>
      obtain ⟨j, -, hj⟩ := ok_of_bind_ok h
      exact (inDomain_ok hj).2
  | pseudo p ops =>
    obtain ⟨j, -, hj⟩ := ok_of_bind_ok h
    exact (inDomain_ok hj).2
  | send b => exact (readSend_of_decode h).2
  | receive after b => cases after <;> cases h <;> rfl

/-- Settles O4: the byte was read in the table of wire rows. -/
theorem wireBytesReencode : Obligations.WireBytesReencode := fun _ _ h => encode_of_readSend (readSend_of_decode h).1

/-- Settles O5, by running the decoder on each word. -/
theorem sampleWordsDecode : Obligations.SampleWordsDecode := by
  unfold Obligations.SampleWordsDecode
  decide

/-! ### Reserved selectors -/

/-- The selectors of the map are those of its operations (30_encoding R103, R104). -/
theorem selOf_eq_none {b : Byte} (h : b ∉ Sel.all.map Sel.code) : selOf b = none := by
  refine List.find?_eq_none.2 fun k hk hb => h ?_
  exact List.mem_map.2 ⟨k, hk, beq_iff_eq.1 hb⟩

theorem decode_reserved {r : Request} (h : selOf r.sel = none) : decode (.request r) = .error (.reservedSelector r.sel) := by
  simp only [decode, h]

/-- Settles O6: the listed values are the codes of the 24 operations, so no operation has the selector. -/
theorem reservedSelectorIsRefused : Obligations.ReservedSelectorIsRefused := by
  intro s sel ops rest hq hsel
  have hnone : selOf sel = none := selOf_eq_none hsel
  exact step_of_decode_error hq (decode_reserved hnone)

end Sys2Proof.Proofs
end

section
/-! PROOFS. Operands outside their domain and address literals (30_encoding R102, R115): each reader of an operand rejects what
lies outside, by the one reason OPERAND_DOMAIN, so that it does not matter which operand is read first. -/

namespace Sys2Proof.Proofs
open Sys2Proof Sys2Proof.Machine

/-! ### Readers of one operand -/

/-- OPERAND_DOMAIN is the only reason a reading can fail for. -/
def OnlyDomain {α : Type} (x : Except DecodeError α) : Prop := ∀ e, x = .error e → e = .operandDomain

theorem onlyDomain_ok {α : Type} (a : α) : OnlyDomain (.ok a) := fun _ h => by cases h

theorem onlyDomain_error {α : Type} : OnlyDomain (.error .operandDomain : Except DecodeError α) := fun _ h => by cases h; rfl

theorem onlyDomain_ite {α : Type} {p : Prop} [Decidable p] (a : α) :
    OnlyDomain (if p then .ok a else .error .operandDomain) := by
  split
  · exact onlyDomain_ok a
  · exact onlyDomain_error

theorem OnlyDomain.bind {α β : Type} {x : Except DecodeError α} {k : α → Except DecodeError β} (hx : OnlyDomain x)
    (hk : ∀ a, OnlyDomain (k a)) : OnlyDomain (x.bind k) := by
  cases x with
  | ok a => exact hk a
  | error e => exact fun e' h => hx e' (by cases h; rfl)

theorem bytesOf_onlyDomain (vs : List Int) : OnlyDomain (bytesOf vs) := by
  induction vs with
  | nil => exact onlyDomain_ok []
  | cons v vs ih => exact OnlyDomain.bind (onlyDomain_ite _) fun _ => ih.bind fun _ => onlyDomain_ok _

theorem toByte_onlyDomain (o : Operand) : OnlyDomain o.toByte := by
  cases o with
  | int v => exact onlyDomain_ite _
  | _ => exact onlyDomain_error

theorem toBytes_onlyDomain (o : Operand) : OnlyDomain o.toBytes := by
  cases o with
  | bytes vs => exact bytesOf_onlyDomain vs
  | _ => exact onlyDomain_error

theorem toWord_onlyDomain (o : Operand) : OnlyDomain o.toWord := by
  cases o with
  | int v => exact onlyDomain_ite _
  | _ => exact onlyDomain_error

theorem toMode_onlyDomain (o : Operand) : OnlyDomain o.toMode := by
  cases o with
  | mode m => exact onlyDomain_ok m
  | _ => exact onlyDomain_error

/-! ### What each reader rejects (30_encoding R102) -/

theorem toBit_outside {v : Int} (h : v < 0 ∨ 1 < v) : (Operand.int v).toBit = .error .operandDomain := by
  rw [Operand.toBit, if_neg (by omega), if_neg (by omega)]

theorem byteOf_outside {v : Int} (h : v < 0 ∨ 255 < v) : byteOf v = .error .operandDomain := if_neg (by omega)

/-- One value outside, at any index, is enough. -/
theorem bytesOf_outside {vs : List Int} (h : ∃ v ∈ vs, v < 0 ∨ 255 < v) : bytesOf vs = .error .operandDomain := by
  induction vs with
  | nil => obtain ⟨v, hv, -⟩ := h; cases hv
  | cons w ws ih =>
    obtain ⟨v, hv, hout⟩ := h
    rcases List.mem_cons.1 hv with rfl | hmem
    · rw [bytesOf, byteOf_outside hout]; rfl
    · rw [bytesOf, ih ⟨v, hmem, hout⟩]
      cases hb : byteOf w with
      | ok b => rfl
      | error e => rw [onlyDomain_ite _ e hb]; rfl

theorem length_of_bytesOf {vs : List Int} {bs : List Byte} (h : bytesOf vs = .ok bs) : bs.length = vs.length := by
  induction vs generalizing bs with
  | nil => cases h; rfl
  | cons v vs ih =>
    obtain ⟨b, -, h⟩ := ok_of_bind_ok h
    obtain ⟨cs, hcs, h⟩ := ok_of_bind_ok h
    cases h
    rw [List.length_cons, List.length_cons, ih hcs]

theorem toWord_outside {v : Int} (h : v < 0 ∨ 2 ^ 64 ≤ v) : (Operand.int v).toWord = .error .operandDomain := if_neg (by omega)

theorem toNat_negative {v : Int} (h : v < 0) : (Operand.int v).toNat = .error .operandDomain := if_neg (by omega)

/-- A position above 64 is still read: the instruction it makes is outside. -/
theorem toNat_large {v : Int} {n : Nat} (h : 64 < v) (hn : (Operand.int v).toNat = .ok n) : 64 < n := by
  rw [Operand.toNat, if_pos (by omega)] at hn
  cases hn
  omega

theorem toMode_outside {o : Operand} (h : ∀ m, o ≠ .mode m) : o.toMode = .error .operandDomain := by
  cases o with
  | mode m => exact absurd rfl (h m)
  | _ => rfl

theorem toRecord_outside {o : Operand} (h : ∀ r, o ≠ .record r) : o.toRecord = .error .operandDomain := by
  cases o with
  | record r => exact absurd rfl (h r)
  | _ => rfl

/-! ### Readings of all operands that end in OPERAND_DOMAIN -/

/-- Reading the operands, and then checking the domain of what they make, gives OPERAND_DOMAIN. -/
def ReadsOutside (x : Except DecodeError Instr) : Prop := x.bind (inDomain .operandDomain) = .error .operandDomain

/-- The operand that is read next is rejected. -/
theorem readsOutside_of_error {α : Type} {x : Except DecodeError α} (h : x = .error .operandDomain)
    (k : α → Except DecodeError Instr) : ReadsOutside (x.bind k) := by rw [h]; rfl

/-- A later operand is rejected, or what they all make is outside: then it does not matter how the next one is read. -/
theorem OnlyDomain.readsOutside {α : Type} {x : Except DecodeError α} {k : α → Except DecodeError Instr} (hx : OnlyDomain x)
    (hk : ∀ a, x = .ok a → ReadsOutside (k a)) : ReadsOutside (x.bind k) := by
  cases x with
  | ok a => exact hk a rfl
  | error e => exact readsOutside_of_error (by rw [hx e rfl]) k

theorem readsOutside_of_not_wellFormed {i : Instr} (h : i.wellFormed = false) : ReadsOutside (.ok i) := by
  show inDomain _ i = _
  rw [inDomain, h]
  rfl

/-- Two operands of which the second cannot be a position: ENC_SEARCH and SEARCH, whatever the first. -/
theorem position_readsOutside {v : Int} (h : v < 0 ∨ 64 < v) (t : Operand) {make : Word → Nat → Instr}
    (hm : ∀ w n, 64 < n → (make w n).wellFormed = false) :
    ReadsOutside (t.toWord.bind fun w => (Operand.int v).toNat.bind fun n => .ok (make w n)) := by
  refine (toWord_onlyDomain t).readsOutside fun w _ => ?_
  rcases h with hneg | hlarge
  · exact readsOutside_of_error (toNat_negative hneg) _
  · exact OnlyDomain.readsOutside (onlyDomain_ite _) fun n hn =>
      readsOutside_of_not_wellFormed (hm w n (toNat_large hlarge hn))

/-- A byte list of another length than the instruction fixes. -/
theorem length_readsOutside {vs : List Int} {k : Nat} (h : vs.length ≠ k) {make : List Byte → Instr}
    (hm : ∀ xs, xs.length ≠ k → (make xs).wellFormed = false) :
    ReadsOutside ((bytesOf vs).bind fun xs => .ok (make xs)) :=
  (bytesOf_onlyDomain vs).readsOutside fun xs hxs => readsOutside_of_not_wellFormed (hm xs (by rwa [length_of_bytesOf hxs]))

/-! ### Rejected items -/

theorem rejectedAs_of_decode {item : Item} {e : DecodeError} (h : decode item = .error e) :
    rejectedAs e (refusalOf e) item := ⟨h, fun _ _ hq => step_of_decode_error hq h⟩

theorem requestOutside_of_readOps {k : Sel} {ops : List Operand} (h : ReadsOutside (readOps k ops)) :
    requestOutside k.code ops := by
  refine rejectedAs_of_decode ?_
  simp only [decode, selOf_code]
  exact h

theorem outsideDomain_of_readPseudo {p : Pseudo} {ops : List Operand} (h : ReadsOutside (readPseudo p ops)) :
    outsideDomain (.pseudo p ops) := rejectedAs_of_decode h

/-- A rejected word, at the places that take no address literal. -/
theorem word_requestsOutside {o : Operand} (h : o.toWord = .error .operandDomain) :
    requestOutside 0x22#8 [o] ∧ (∀ last, requestOutside 0x30#8 [o, last]) ∧ ∀ last, requestOutside 0x44#8 [o, last] :=
  ⟨requestOutside_of_readOps (k := .addrFromSearch) (readsOutside_of_error h _),
    fun _ => requestOutside_of_readOps (k := .encSearch) (readsOutside_of_error h _),
    fun _ => requestOutside_of_readOps (k := .search) (readsOutside_of_error h _)⟩

/-! ### Address literals (30_encoding R115) -/

theorem exec_addrParse_ok {cs : List Char} {v : Word} (h : parseAddress cs = .ok v) (s : State) :
    exec (.addrParse cs) s = .next (s.respond (.result (.addr v))) := by
  show answer ((parseAddress cs).map .addr) s = _
  rw [h]; rfl

theorem exec_addrParse_error {cs : List Char} {e : Err} (h : parseAddress cs = .error e) (s : State) :
    exec (.addrParse cs) s = .next (s.respond (.error e)) := by
  show answer ((parseAddress cs).map .addr) s = _
  rw [h]; rfl

theorem response_of_next_eq {s : State} {a b : Response}
    (h : (.next (s.respond a) : Host.Outcome State Fault Refusal) = .next (s.respond b)) : a = b := by
  injection h with h
  exact Option.some.inj (congrArg State.response h)

/-- ADDR_PARSE answers with a value exactly when the text parses to it. -/
theorem parseAddress_of_result {cs : List Char} {v : Word} {s : State}
    (h : exec (.addrParse cs) s = .next (s.respond (.result (.addr v)))) : parseAddress cs = .ok v := by
  cases hp : parseAddress cs with
  | ok w => rw [exec_addrParse_ok hp] at h; cases response_of_next_eq h; rfl
  | error e => rw [exec_addrParse_error hp] at h; cases response_of_next_eq h

theorem parseAddress_of_error {cs : List Char} {e : Err} {s : State}
    (h : exec (.addrParse cs) s = .next (s.respond (.error e))) : parseAddress cs = .error e := by
  cases hp : parseAddress cs with
  | ok w => rw [exec_addrParse_ok hp] at h; cases response_of_next_eq h
  | error e' => rw [exec_addrParse_error hp] at h; cases response_of_next_eq h; rfl

theorem toAddress_of_parse {cs : List Char} {v : Word} (h : parseAddress cs = .ok v) : (Operand.text cs).toAddress = .ok v := by
  simp only [Operand.toAddress, h]

theorem toAddress_of_parse_error {cs : List Char} {e : Err} (h : parseAddress cs = .error e) :
    (Operand.text cs).toAddress = .error .badLiteral := by
  simp only [Operand.toAddress, h]

/-- The three operations that take an address read a literal as its ADDR_PARSE result. -/
theorem decode_literal {cs : List Char} {v : Word} (h : parseAddress cs = .ok v) :
    decode (requestOf .addrToBytes [.text cs]) = .ok (.addrToBytes v) ∧
      decode (requestOf .addrFields [.text cs]) = .ok (.addrFields v) ∧
      decode (.pseudo .addrRender [.text cs]) = .ok (.addrRender v) :=
  ⟨decode_requestOf _ _ _ (by simp [readOps, toAddress_of_parse h]) rfl,
    decode_requestOf _ _ _ (by simp [readOps, toAddress_of_parse h]) rfl,
    decode_pseudo (by simp [readPseudo, toAddress_of_parse h]) rfl⟩

theorem decode_badLiteral {cs : List Char} {e : Err} (h : parseAddress cs = .error e) :
    decode (requestOf .addrToBytes [.text cs]) = .error .badLiteral ∧
      decode (requestOf .addrFields [.text cs]) = .error .badLiteral ∧
      decode (.pseudo .addrRender [.text cs]) = .error .badLiteral := by
  refine ⟨?_, ?_, ?_⟩
  · simp only [decode, requestOf, selOf_code, readOps, toAddress_of_parse_error h]; rfl
  · simp only [decode, requestOf, selOf_code, readOps, toAddress_of_parse_error h]; rfl
  · simp only [decode, readPseudo, toAddress_of_parse_error h]; rfl

/-! ### The meanings that take a wider value than their operand's domain -/

theorem exec_position_outside (t : Word) {last : Nat} (s : State) (h : 64 < last) :
    exec (.encSearch t last) s = .refused .operandDomain ∧ exec (.search t last) s = .refused .operandDomain :=
  ⟨if_neg (by omega), if_neg (by omega)⟩

theorem exec_response_outside {rs : List Byte} (s : State) (h : rs.length ≠ 16) :
    exec (.decSearch rs) s = .refused .operandDomain ∧ exec (.prsStream rs) s = .refused .operandDomain :=
  ⟨if_neg h, if_neg h⟩

/-- Settles O7, kind of operand by kind of operand: at each place the operand's own reader rejects it, or the domain check
does, and the operands read before it can only fail for the same reason. -/
theorem operandOutsideItsDomainIsRefused : Obligations.OperandOutsideItsDomainIsRefused := by
  refine ⟨fun v hv => ?bit, fun v hv => ?byte, fun vs hvs => ?bytes, fun v hv => ?word, fun v hv t => ?position,
    fun v hv => ?negative, fun vs hvs fam => ?serial, fun vs hvs => ?response, fun m tx n hm => ?mode, fun p hp => ?record,
    fun t last s h => exec_position_outside t s h, fun fam ser s h => if_neg h, fun rs s h => exec_response_outside s h,
    fun cs => ?literal⟩
  case bit =>
    refine ⟨requestOutside_of_readOps (k := .crcBit) ?_, requestOutside_of_readOps (k := .prsBit) ?_, fun r hr =>
      requestOutside_of_readOps (k := .configure) (readsOutside_of_error ?_ _)⟩
    · exact readsOutside_of_error (toBit_outside hv) _
    · exact readsOutside_of_error (toBit_outside hv) _
    · rw [Operand.toRecord, hr, toBit_outside hv]; rfl
  case byte =>
    have hbyte : (Operand.int v).toByte = .error .operandDomain := byteOf_outside hv
    exact ⟨requestOutside_of_readOps (k := .crcByte) (readsOutside_of_error hbyte _),
      requestOutside_of_readOps (k := .prsByte) (readsOutside_of_error hbyte _),
      fun ser => requestOutside_of_readOps (k := .addrMake) (readsOutside_of_error hbyte _)⟩
  case bytes =>
    have hbytes : (Operand.bytes vs).toBytes = .error .operandDomain := bytesOf_outside hvs
    refine ⟨requestOutside_of_readOps (k := .crcSeq) (readsOutside_of_error hbytes _),
      requestOutside_of_readOps (k := .crcSeqr) (readsOutside_of_error hbytes _),
      requestOutside_of_readOps (k := .addrFromBytes) (readsOutside_of_error hbytes _),
      requestOutside_of_readOps (k := .decSearch) (readsOutside_of_error hbytes _),
      fun fam => requestOutside_of_readOps (k := .addrMake) ?_, fun m n => requestOutside_of_readOps (k := .xact) ?_,
      fun n => requestOutside_of_readOps (k := .txrx) (readsOutside_of_error hbytes _),
      outsideDomain_of_readPseudo (readsOutside_of_error hbytes _),
      outsideDomain_of_readPseudo (readsOutside_of_error hbytes _)⟩
    · exact (toByte_onlyDomain fam).readsOutside fun _ _ => readsOutside_of_error hbytes _
    · exact (toMode_onlyDomain m).readsOutside fun _ _ => readsOutside_of_error hbytes _
  case word =>
    have hword : (Operand.int v).toWord = .error .operandDomain := toWord_outside hv
    obtain ⟨hacc, htree, hsearch⟩ := word_requestsOutside hword
    exact ⟨hacc, requestOutside_of_readOps (k := .addrToBytes) (readsOutside_of_error hword _),
      requestOutside_of_readOps (k := .addrFields) (readsOutside_of_error hword _), htree, hsearch,
      outsideDomain_of_readPseudo (readsOutside_of_error hword _)⟩
  case position =>
    have hmake (n : Nat) (hn : 64 < n) : decide (n ≤ 64) = false := decide_eq_false (by omega)
    exact ⟨requestOutside_of_readOps (k := .encSearch) (position_readsOutside hv t fun _ => hmake),
      requestOutside_of_readOps (k := .search) (position_readsOutside hv t fun _ => hmake)⟩
  case negative =>
    have hnat := toNat_negative hv
    refine ⟨fun m tx => requestOutside_of_readOps (k := .xact) ?_, fun tx => requestOutside_of_readOps (k := .txrx) ?_⟩
    · exact (toMode_onlyDomain m).readsOutside fun _ _ => (toBytes_onlyDomain tx).readsOutside fun _ _ =>
        readsOutside_of_error hnat _
    · exact (toBytes_onlyDomain tx).readsOutside fun _ _ => readsOutside_of_error hnat _
  case serial =>
    exact requestOutside_of_readOps (k := .addrMake) ((toByte_onlyDomain fam).readsOutside fun _ _ =>
      length_readsOutside hvs fun _ h => decide_eq_false h)
  case response =>
    exact ⟨requestOutside_of_readOps (k := .decSearch) (length_readsOutside hvs fun _ h => decide_eq_false h),
      outsideDomain_of_readPseudo (length_readsOutside hvs fun _ h => decide_eq_false h)⟩
  case mode => exact requestOutside_of_readOps (k := .xact) (readsOutside_of_error (toMode_outside hm) _)
  case record => exact requestOutside_of_readOps (k := .configure) (readsOutside_of_error (toRecord_outside hp) _)
  case literal =>
    refine ⟨fun s v h => decode_literal (parseAddress_of_result h), fun s e h => ?_, word_requestsOutside rfl⟩
    obtain ⟨hbytes, hfields, hrender⟩ := decode_badLiteral (parseAddress_of_error h)
    exact ⟨rejectedAs_of_decode hbytes, rejectedAs_of_decode hfields, rejectedAs_of_decode hrender⟩

end Sys2Proof.Proofs
end

section
/-! PROOFS. The text form of an address (30_encoding R110 to R114, 41_address R150, R151): parsing a rendering checks the value
it was made from, and every canonical text is a rendering. -/

namespace Sys2Proof.Proofs
open Sys2Proof Sys2Proof.Machine

/-! ### Parsing a rendering -/

/-- The byte form of a value, field by field (41_address R140). -/
theorem le8_fields (v : Word) : le8 v = addrFamily v :: ((le8 v).drop 1).take 6 ++ [addrCrc v] := rfl

theorem length_serialBytes (v : Word) : (((le8 v).drop 1).take 6).length = 6 := by simp

/-- What R143 would generate from the family and serial of a value: the value itself, but for its CRC field. -/
def regenerated (v : Word) : Word := addrOf (addrFamily v) (((le8 v).drop 1).take 6)

theorem le8_regenerated (v : Word) :
    le8 (regenerated v) = addrFamily v :: ((le8 v).drop 1).take 6 ++ [crc8 ((le8 v).take 7)] :=
  le8_addrOf _ _ (length_serialBytes v)

theorem addrCrc_regenerated (v : Word) : addrCrc (regenerated v) = crc8 ((le8 v).take 7) := by
  have hbytes := (le8_fields (regenerated v)).symm.trans (le8_regenerated v)
  exact (List.cons.inj (List.append_inj_right' hbytes rfl)).1

theorem regenerated_of_valid {v : Word} (h : AddrValid v) : regenerated v = v := by
  refine le8_inj ?_
  rw [le8_regenerated, ← h]
  exact (le8_fields v).symm

theorem hexField_hexByte (b : Byte) : hexField (hexByte b) = some [b] := by
  rw [hexByte_eq_flatMap, hexField_flatMap_hexByte]

theorem hexByte_ne_dashes (b : Byte) : hexByte b ≠ ['-', '-'] := by
  intro h
  have hb := b.isLt
  exact (hexDigit_ne (b.toNat / 16) (by omega)).2 (List.cons.inj h).1

/-- A CRC field of two hex digits is compared with the address (30_encoding R113). -/
theorem parseCrc_hexByte (v : Word) (b : Byte) :
    parseCrc v (hexByte b) = if addrCrc v ≠ b then .error (.crcMismatch (addrCrc v) b) else .ok v := by
  rw [parseCrc, if_neg (hexByte_ne_dashes b), hexField_hexByte]

theorem parseAddress_render (v : Word) :
    parseAddress (renderAddress v) = parseCrc (regenerated v) (hexByte (addrCrc v)) := by
  have hpad : padSerial (((le8 v).drop 1).take 6) = ((le8 v).drop 1).take 6 := by
    rw [padSerial, length_serialBytes]; rfl
  simp only [parseAddress, splitDots_render, hexField_hexByte, hexField_flatMap_hexByte, hpad, length_serialBytes]
  rfl

theorem parse_render_of_valid {v : Word} (h : AddrValid v) : parseAddress (renderAddress v) = .ok v := by
  rw [parseAddress_render, parseCrc_hexByte, addrCrc_regenerated, if_neg (not_not.2 h.symm), regenerated_of_valid h]

theorem parse_render_of_not_valid {v : Word} (h : ¬AddrValid v) :
    parseAddress (renderAddress v) = .error (.crcMismatch (crc8 ((le8 v).take 7)) (addrCrc v)) := by
  rw [parseAddress_render, parseCrc_hexByte, addrCrc_regenerated, if_pos fun e => h e.symm]

/-- Settles O23: parsing a rendering compares the CRC of the value's first seven bytes with its CRC field, which is what its
validity says. -/
theorem renderedAddressParses : Obligations.RenderedAddressParses := by
  intro s v
  refine ⟨rfl, fun h => ?valid, fun h => ?invalid⟩
  case valid => exact exec_addrParse_ok (parse_render_of_valid h) s
  case invalid => exact exec_addrParse_error (parse_render_of_not_valid h) s

/-! ### Canonical texts -/

/-- A lower-case hex digit is the rendering of its value (30_encoding R114). -/
theorem exists_hexDigit {c : Char} (h : lowerHex c) : ∃ k < 16, hexDigit k = c := by
  rcases h with ⟨h1, h2⟩ | ⟨h1, h2⟩
  · refine ⟨c.toNat - 48, by omega, ?_⟩
    rw [hexDigit, if_pos (by omega), Nat.add_sub_cancel' h1, Char.ofNat_toNat]
  · refine ⟨c.toNat - 87, by omega, ?_⟩
    rw [hexDigit, if_neg (by omega), Nat.add_sub_cancel' (by omega), Char.ofNat_toNat]

theorem exists_hexByte {c d : Char} (hc : lowerHex c) (hd : lowerHex d) : ∃ b, hexByte b = [c, d] := by
  obtain ⟨k, hk, rfl⟩ := exists_hexDigit hc
  obtain ⟨l, hl, rfl⟩ := exists_hexDigit hd
  refine ⟨BitVec.ofNat 8 (16 * k + l), ?_⟩
  have hb : (BitVec.ofNat 8 (16 * k + l)).toNat = 16 * k + l := by rw [BitVec.toNat_ofNat]; omega
  rw [hexByte, hb, show (16 * k + l) / 16 = k by omega, show (16 * k + l) % 16 = l by omega]

/-- A field of `2 * n` lower-case digits is the rendering of `n` bytes. -/
theorem exists_flatMap_hexByte (n : Nat) {cs : List Char} (hlen : cs.length = 2 * n) (h : ∀ c ∈ cs, lowerHex c) :
    ∃ bs : List Byte, bs.length = n ∧ bs.flatMap hexByte = cs := by
  induction n generalizing cs with
  | zero => exact ⟨[], rfl, (List.length_eq_zero_iff.1 hlen).symm⟩
  | succ n ih =>
    match cs, hlen with
    | c :: d :: cs, hlen =>
      obtain ⟨b, hb⟩ := exists_hexByte (h c (by simp)) (h d (by simp))
      obtain ⟨bs, hbs, hcs⟩ := ih (cs := cs) (by simp at hlen; omega) fun e he => h e (by simp [he])
      exact ⟨b :: bs, congrArg (· + 1) hbs, by rw [List.flatMap_cons, hb, hcs]; rfl⟩

/-- The rendering of the value with a given byte form. -/
theorem renderAddress_fromLE (f c : Byte) {bs : List Byte} (h : bs.length = 6) :
    renderAddress (fromLE (f :: bs ++ [c])) = hexByte f ++ '.' :: bs.flatMap hexByte ++ '.' :: hexByte c := by
  have hle : le8 (fromLE (f :: bs ++ [c])) = f :: bs ++ [c] := le8_fromLE _ (by simp [h])
  have hfields := (le8_fields (fromLE (f :: bs ++ [c]))).symm.trans hle
  obtain ⟨hfam, htail⟩ := List.cons.inj hfields
  obtain ⟨hser, hcrc⟩ := List.append_inj' htail rfl
  rw [renderAddress, hfam, hser, (List.cons.inj hcrc).1]

/-- A text in canonical form is a rendering, whatever its CRC (30_encoding R114). -/
theorem exists_renderAddress {fam ser crc : List Char} (hfam : fam.length = 2) (hser : ser.length = 12)
    (hcrc : crc.length = 2) (h : ∀ c ∈ fam ++ ser ++ crc, lowerHex c) :
    ∃ w, renderAddress w = fam ++ '.' :: ser ++ '.' :: crc := by
  rw [List.forall_mem_append, List.forall_mem_append] at h
  obtain ⟨⟨hfamDigits, hserDigits⟩, hcrcDigits⟩ := h
  obtain ⟨fs, hf, rfl⟩ := exists_flatMap_hexByte 1 hfam hfamDigits
  obtain ⟨bs, hb, rfl⟩ := exists_flatMap_hexByte 6 hser hserDigits
  obtain ⟨cs, hc, rfl⟩ := exists_flatMap_hexByte 1 hcrc hcrcDigits
  obtain ⟨f, rfl⟩ := List.length_eq_one_iff.1 hf
  obtain ⟨c, rfl⟩ := List.length_eq_one_iff.1 hc
  exact ⟨_, by rw [renderAddress_fromLE f c hb, hexByte_eq_flatMap f, hexByte_eq_flatMap c]⟩

/-- Settles O24: the text is the rendering of some value, and what is accepted of a rendering is that value. -/
theorem canonicalTextRoundTrips : Obligations.CanonicalTextRoundTrips := by
  intro s fam ser crc v hfam hser hcrc hdigits hparse
  obtain ⟨w, hw⟩ := exists_renderAddress hfam hser hcrc hdigits
  have hok : parseAddress (renderAddress w) = .ok v := hw ▸ parseAddress_of_result hparse
  have hvalid : AddrValid w := by
    by_contra h
    rw [parse_render_of_not_valid h] at hok
    cases hok
  rw [parse_render_of_valid hvalid] at hok
  cases hok
  rw [← hw]
  rfl

end Sys2Proof.Proofs
end

section
/-! PROOFS. Transactions, DETECT, RESET_BUS, SEARCH and the wire rows (30_encoding R70 to R92, 43_frame_mode R192, R210 to R217):
what each leaves when it is answered, and what a garbled answer's recovery leaves. -/

namespace Sys2Proof.Proofs
open Sys2Proof Sys2Proof.Machine

/-! ### What carries over from a transaction to what follows it -/

theorem keepsRegisters_trans {s t u : State} (h : KeepsRegisters s t) (k : KeepsRegisters t u) : KeepsRegisters s u := by
  obtain ⟨h1, h2, h3, h4, h5, h6, h7⟩ := h
  obtain ⟨k1, k2, k3, k4, k5, k6, k7⟩ := k
  exact ⟨k1.trans h1, k2.trans h2, k3.trans h3, k4.trans h4, k5.trans h5, k6.trans h6, k7.trans h7⟩

/-- A transaction makes no line control. -/
theorem exchanged_lineDraw (s : State) (m : Mode) (tx : List Byte) (n k : Nat) :
    (s.exchanged m tx n).lineDraw k = s.lineDraw k := by
  unfold State.exchanged
  split <;> simp [State.afterRead, State.sent]

/-- So it does not change what a later recovery leaves in LIVE_BAUD. -/
theorem liveAfterDetect_exchanged (s : State) (m : Mode) (tx : List Byte) (n : Nat) :
    liveAfterDetect (s.exchanged m tx n) = liveAfterDetect s := by
  obtain ⟨-, -, hlive⟩ := exchanged_keeps s m tx n
  rw [liveAfterDetect, exchanged_lineDraw, exchanged_lineDraw, hlive]
  rfl

theorem detectRuns_exchangeEvents (frame : List Byte) (n : Nat) (rx : List Byte) :
    detectRuns (exchangeEvents frame n rx) = 0 := by
  unfold exchangeEvents
  split <;> rfl

/-- A recovery after an answered transaction, seen from before the transaction. -/
theorem detectOut_of_exchanged {s t : State} {m : Mode} {tx rx : List Byte} {n : Nat}
    (h : DetectOut (s.exchanged m tx n) t) (hr : Answered s n rx) : DetectOut s t where
  keep := keepsRegisters_trans (exchanged_keeps s m tx n).1 h.keep
  mode := h.mode
  live := h.live.trans (liveAfterDetect_exchanged s m tx n)
  hist := by
    obtain ⟨es, hes, hruns⟩ := h.hist
    refine ⟨exchangeEvents (frameFor m tx s) n rx ++ es, ?_, ?_⟩
    · rw [hes, exchanged_history hr, List.append_assoc]
    · rw [detectRuns_append, detectRuns_exchangeEvents, hruns]

/-- An operation whose body raises `e` after one recovery. -/
theorem configured_recovered {r : State → Ran Result} {s t : State} {e : Err} (hc : s.cfgValid = true) (h : r s = .err e t)
    (d : DetectOut s t) :
    ∃ u es, configured r s = .next u ∧ u.response = some (.error e) ∧ u.mode = .command ∧
      u.liveBaud = liveAfterDetect s ∧ u.history = s.history ++ es ∧ detectRuns es = 1 ∧ KeepsRegisters s u := by
  obtain ⟨es, hes, hruns⟩ := d.hist
  exact ⟨t.respond (.error e), es, configured_err hc h, rfl, d.mode, d.live, hes, hruns, d.keep⟩

/-! ### The response checks (43_frame_mode R213, R216) -/

theorem checkReset_good {y : Byte} {v : ChipVersion} (h1 : y &&& 0xC0#8 = 0xC0#8) (h2 : (y.extractLsb' 2 3).toNat = v.code)
    (s : State) : checkReset y s = .ok (.reset v (y.extractLsb' 0 2)) s := by
  rw [checkReset, if_neg (not_not.2 h1), versionOf_code h2]

theorem checkEcho_good {y : Byte} (h : y &&& 0xF0#8 = 0xF0#8) (s : State) : checkEcho y s = .ok () s := if_neg (not_not.2 h)

theorem checkEcho_bad {y : Byte} (h : y &&& 0xF0#8 ≠ 0xF0#8) (s : State) :
    checkEcho y s = resyncRaise (.invalidResponse .search y) s := if_pos h

/-! ### DETECT -/

/-- The probe of DETECT, written out (30_encoding R92). -/
theorem probeFrame_eq (c : Session) :
    probeFrame c = [0x10#8 ||| (c.slew.setWidth 8 <<< 1) ||| 1#8, 0x40#8 ||| (c.w1lt.setWidth 8 <<< 1) ||| 1#8,
      0x50#8 ||| (c.w0rt.setWidth 8 <<< 1) ||| 1#8, 0x0F#8, 0x81#8 ||| (c.speed.setWidth 8 <<< 2)] := rfl

theorem presentOf_eq (c : Session) (y : List Byte) :
    presentOf c y = (decide ((y.getD 3 0#8).extractLsb' 1 3 = c.baud) &&
      decide (y.getD 4 0#8 &&& 0xFC#8 = (0x81#8 ||| (c.speed.setWidth 8 <<< 2)) &&& 0xFC#8)) := rfl

theorem exec_detect (s : State) :
    exec .detect s = configured (fun s => (detectBody s).bind fun p s => .ok (.present p) s) s := rfl

/-- The answer arrives after DETECT's flush, so its read delivers exactly it. -/
theorem probed_reads {s : State} {y : List Byte} (hr : Delivers s 0 5 y) :
    readOutcome 5 s.probed.pending (s.probed.readDraw 0) = .bytes y := by
  obtain ⟨-, -, -, hpending, hdraw, -⟩ := probed_facts s
  rw [hpending, hdraw]
  exact hr

/-- DETECT's body, answered: it ends after its read with the presence bit (43_frame_mode R210). -/
theorem detectBody_answered {s : State} {y : List Byte} (h : ReachesRead s 0 0) (hr : Delivers s 0 5 y) :
    detectBody s = .ok (presentOf s.cfg y) (s.probed.afterRead 5) := by
  obtain ⟨-, -, -, -, -, -, -, -, hcfg, -⟩ := probed_facts s
  rw [detectBody_reaches h, rxRead_bytes (by decide) (probed_reads hr), Ran.bind_ok, ← hcfg]
  rfl

theorem probed_afterRead_history {s : State} {y : List Byte} (hr : Delivers s 0 5 y) :
    (s.probed.afterRead 5).history = s.history ++ (detectEvents s.cfg ++ [Event.read 5 (.bytes y)]) := by
  obtain ⟨-, -, hhist, -⟩ := probed_facts s
  rw [State.afterRead, probed_reads hr, ← List.append_assoc, ← hhist]
  rfl

/-- Settles O43: DETECT's body runs up to its read, the read delivers, and the bytes written are those of the session. -/
theorem detectCompletes : Obligations.DetectCompletes := by
  intro s y hc l0 l1 l2 f0 w0 w1 hr
  obtain ⟨hmode, hlive, -, -, -, hkeep⟩ := probed_facts s
  have hbody := detectBody_answered ⟨l0, l1, l2, f0, w0, w1⟩ hr
  have hhist := probed_afterRead_history hr
  rw [detectEvents, probeFrame_eq] at hhist
  rw [exec_detect, ← presentOf_eq]
  exact ⟨(s.probed.afterRead 5).respond _, configured_ok hc (by simp only [hbody, Ran.bind_ok]), rfl, length_of_readOutcome hr,
    hmode, hlive, hhist, hkeep⟩

/-! ### RESET_BUS -/

/-- The reset frame, written out (30_encoding R91). -/
theorem frameFor_reset (s : State) :
    frameFor .command [owResetByte s.cfg.speed] s =
      if s.mode = .command then [0xC1#8 ||| (s.cfg.speed.setWidth 8 <<< 2)]
      else [0xE3#8, 0xC1#8 ||| (s.cfg.speed.setWidth 8 <<< 2)] := rfl

/-- The transaction of RESET_BUS asks for one byte. -/
theorem answered_reset {s : State} {y : Byte} (h : Delivers s 0 1 [y]) : Answered s 1 [y] := .inr ⟨by decide, h⟩

/-- Settles O45: the reset's transaction is answered, and the byte passes both checks. -/
theorem resetBusCompletes : Obligations.ResetBusCompletes := by
  intro s y v hc hs hr h1 h2
  obtain ⟨hkeep, hmode, hlive⟩ := exchanged_keeps s .command [owResetByte s.cfg.speed] 1
  have hhist := exchanged_history (m := .command) (tx := [owResetByte s.cfg.speed]) (answered_reset hr)
  rw [frameFor_reset] at hhist
  refine ⟨_, configured_ok hc (resetBody_ok hs hr h1 h2), rfl, hmode, hlive, hhist, hkeep, ?_, ?_⟩
  · cases v <;> simp [ChipVersion.code, ChipVersion.text]
  · cases v <;> simp [ChipVersion.code, ChipVersion.text]

/-- RESET_BUS up to its checks (43_frame_mode R213). -/
theorem resetBody_answered {s : State} {y : Byte} (hs : Sends s 0 (if s.mode = .command then 1 else 2))
    (hr : Delivers s 0 1 [y]) : resetBody s = checkReset y (s.exchanged .command [owResetByte s.cfg.speed] 1) := by
  rw [resetBody, transact_ok (length_resetFrame s ▸ hs) (answered_reset hr)]
  rfl

/-- Settles O46: the byte fails a check, so the recovery runs, and its read is the second one. -/
theorem resetBusRejectsGarbledResponses : Obligations.ResetBusRejectsGarbledResponses := by
  intro s y hc hs hr hhang hbad
  have hdraw := (exchanged_draws s .command [owResetByte s.cfg.speed] 1 (by decide) 0).2.2
  obtain ⟨t, ht, hout⟩ := resyncRaise_out (α := Result) (.invalidResponse .reset y)
    (s.exchanged .command [owResetByte s.cfg.speed] 1) (by rw [NoHang, hdraw]; exact hhang)
  refine configured_recovered hc ?_ (detectOut_of_exchanged hout (answered_reset hr))
  rw [resetBody_answered hs hr, checkReset_bad hbad, ht]

/-! ### SEARCH -/

/-- The payload of SEARCH behind its marker, written out (30_encoding R90). -/
theorem marker_payload (s : State) (t : Word) (last : Nat) :
    marker .data :: s.payload t last =
      [0xE1#8, 0xF0#8, 0xE3#8, 0xB1#8 ||| (s.cfg.speed.setWidth 8 <<< 2), 0xE1#8] ++ encodeSearch s.encVariant t last ++
        [0xE3#8, 0xA1#8 ||| (s.cfg.speed.setWidth 8 <<< 2)] := rfl

/-- The events of a search whose two transactions were answered: the reset's, then its own. -/
theorem searched_history {s : State} {t : Word} {last : Nat} {y : Byte} {rx : List Byte} (d0 : Delivers s 0 1 [y])
    (d1 : Delivers s 1 17 rx) :
    (s.searched t last).history = s.history ++ exchangeEvents (frameFor .command [owResetByte s.cfg.speed] s) 1 [y] ++
      exchangeEvents (marker .data :: s.payload t last) 17 rx := by
  have hdraw := (exchanged_draws s .command [owResetByte s.cfg.speed] 1 (by decide) 0).2.2
  have hr : Answered (s.exchanged .command [owResetByte s.cfg.speed] 1) 17 rx :=
    .inr ⟨by decide, by rw [Delivers, hdraw]; exact d1⟩
  rw [State.searched, exchanged_history hr, exchanged_history (answered_reset d0), (frameFor_payload s t last).1]

theorem searched_keeps (s : State) (t : Word) (last : Nat) :
    KeepsRegisters s (s.searched t last) ∧ (s.searched t last).mode = .data ∧ (s.searched t last).liveBaud = s.liveBaud := by
  obtain ⟨hkeep, -, hlive⟩ := exchanged_keeps s .command [owResetByte s.cfg.speed] 1
  obtain ⟨hkeep', hmode', hlive'⟩ := exchanged_keeps (s.exchanged .command [owResetByte s.cfg.speed] 1) .data (s.payload t last) 17
  exact ⟨keepsRegisters_trans hkeep hkeep', hmode', hlive'.trans hlive⟩

/-- Settles O47: both transactions are answered and the echo byte passes. -/
theorem searchCompletes : Obligations.SearchCompletes := by
  intro s t last y e v rs hc hlast s0 s1 d0 d1 h1 h2 he
  obtain ⟨hkeep, hmode, hlive⟩ := searched_keeps s t last
  have hbody : searchBody t last s = .ok (decodeSearch rs) (s.searched t last) := by
    rw [searchBody_answered s0 s1 d0 d1 h1 h2, checkEcho_good he, Ran.bind_ok]
  have hhist := searched_history (t := t) (last := last) d0 d1
  rw [frameFor_reset, marker_payload] at hhist
  refine ⟨(s.searched t last).respond (.result (.decoded (decodeSearch rs).1 (decodeSearch rs).2)), ?_, rfl, hmode, hlive,
    hhist, hkeep⟩
  exact (if_pos hlast).trans (configured_ok hc (by simp only [hbody, Ran.bind_ok]))

/-! ### The wire rows -/

/-- A transaction asked for alone, its frame sent and answered (43_frame_mode R192, R193). -/
theorem transactBytes_completes {s : State} {m : Mode} {tx rx : List Byte} {n : Nat} (hc : s.cfgValid = true)
    (hs : Sends s 0 (frameFor m tx s).length) (hr : Answered s n rx) :
    ∃ t, configured (transactBytes m tx n) s = .next t ∧ t.response = some (.result (.bytes rx)) ∧ t.mode = m ∧
      t.liveBaud = s.liveBaud ∧ t.history = s.history ++ exchangeEvents (frameFor m tx s) n rx ∧ KeepsRegisters s t := by
  obtain ⟨hkeep, hmode, hlive⟩ := exchanged_keeps s m tx n
  have hbody : transactBytes m tx n s = .ok (.bytes rx) (s.exchanged m tx n) := by
    rw [transactBytes, transact_ok hs hr, Ran.bind_ok]
  exact ⟨_, configured_ok hc hbody, rfl, hmode, hlive, exchanged_history hr, hkeep⟩

/-- An outgoing row is the transaction of its payload (log entry 4): one whose operand has a domain runs because it lies in
it, and a configuration row's byte is its base with the code. -/
theorem exec_wireRow {i : Instr} {m : Mode} {tx : List Byte} {n : Nat} (h : wirePayload i = some (m, tx, n))
    (hw : i.wellFormed = true) (s : State) : exec i s = configured (transactBytes m tx n) s := by
  cases i with
  | markData | markCommand | searchRom => cases h; rfl
  | owReset _ | srchAccOn _ | srchAccOff _ | bitWrite _ => cases h; exact if_pos (of_decide_eq_true hw)
  | cfgRead p => cases h; rw [← cfgReadByte_eq]; rfl
  | cfgWriteSlew c => cases h; rw [← cfgByte_of_base (i := 1#3) (base := 0x11#8) rfl]; rfl
  | cfgWritePdur c => cases h; rw [← cfgByte_of_base (i := 2#3) (base := 0x21#8) rfl]; rfl
  | cfgWriteSpud c => cases h; rw [← cfgByte_of_base (i := 3#3) (base := 0x31#8) rfl]; exact if_pos (of_decide_eq_true hw)
  | cfgWriteW1lt c => cases h; rw [← cfgByte_of_base (i := 4#3) (base := 0x41#8) rfl]; rfl
  | cfgWriteW0rt c => cases h; rw [← cfgByte_of_base (i := 5#3) (base := 0x51#8) rfl]; rfl
  | cfgWriteLoad c => cases h; rw [← cfgByte_of_base (i := 6#3) (base := 0x61#8) rfl]; rfl
  | cfgWriteBaud c => cases h; rw [← cfgByte_of_base (i := 7#3) (base := 0x71#8) rfl]; exact if_pos (of_decide_eq_true hw)
  | _ => cases h

/-- Settles O54: the row is one transaction, and that completes. -/
theorem wireRowsCompleteAsTransactions : Obligations.WireRowsCompleteAsTransactions := by
  intro i s m tx rx n hrow hw hc hs hr
  rw [exec_wireRow hrow hw]
  exact transactBytes_completes hc hs hr

theorem exec_searchEcho (y : Byte) (s : State) :
    exec (.searchEcho y) s = configured (fun s => (checkEcho y s).bind fun _ s => .ok .none s) s := rfl

/-- Settles O55: a good byte passes the row's check with no change of the state, and a bad one runs the recovery. -/
theorem responseRowsCheckTheByte : Obligations.ResponseRowsCheckTheByte := by
  intro s y hc
  refine ⟨fun v h1 h2 => ?resetGood, fun h => ?echoGood, ?bitEcho, fun hhang hbad => ?resetBad, fun hhang hbad => ?echoBad⟩
  case resetGood => exact configured_ok hc (checkReset_good h1 h2 s)
  case echoGood =>
    rw [exec_searchEcho]
    exact configured_ok hc (by simp only [checkEcho_good h, Ran.bind_ok])
  case bitEcho => exact configured_ok hc rfl
  case resetBad =>
    obtain ⟨t, ht, hout⟩ := resyncRaise_out (α := Result) (.invalidResponse .reset y) s hhang
    exact configured_recovered hc ((checkReset_bad hbad s).trans ht) hout
  case echoBad =>
    obtain ⟨t, ht, hout⟩ := resyncRaise_out (α := Unit) (.invalidResponse .search y) s hhang
    rw [exec_searchEcho]
    exact configured_recovered hc (by simp only [checkEcho_bad hbad, ht, Ran.bind_err]) hout

end Sys2Proof.Proofs
end

section
/-! PROOFS. The configuration tables (30_encoding R82). -/

namespace Sys2Proof.Proofs
open Sys2Proof Sys2Proof.Machine

/-- Settles O35: each table lists its values in code order; the code of FOREVER does not enter the legal set. -/
theorem configurationTables : Obligations.ConfigurationTables :=
  ⟨rfl, rfl, rfl, rfl, rfl, rfl, rfl, rfl, forever_cases⟩

end Sys2Proof.Proofs
end

section
/-! PROOFS. The CRC unit (40_crc R121 to R129): the byte step sees the register and the byte only through their XOR, and the
pseudo-operation is the sequence of the unit's own operations. -/

namespace Sys2Proof.Proofs
open Sys2Proof Sys2Proof.Machine

/-! ### Sequences of operations (30_encoding R116) -/

theorem andThen_next (o : Host.Outcome State Fault Refusal) : andThen o .next = o := by
  cases o <;> rfl

theorem andThen_assoc (o : Host.Outcome State Fault Refusal) (k l : State → Host.Outcome State Fault Refusal) :
    andThen (andThen o k) l = andThen o fun s => andThen (k s) l := by
  cases o <;> rfl

/-- Adding one operation after the other to an outcome is running them all after it. -/
theorem foldl_andThen (op : Byte → State → Host.Outcome State Fault Refusal) (xs : List Byte)
    (o : Host.Outcome State Fault Refusal) :
    xs.foldl (fun o x => andThen o (op x)) o = andThen o (forEachByte op xs) := by
  induction xs generalizing o with
  | nil => exact (andThen_next o).symm
  | cons x xs ih => exact (ih _).trans (andThen_assoc o (op x) (forEachByte op xs))

/-! ### The byte step -/

/-- A bit that differs from bit 0 brings the polynomial's bit 7 in, so only the zero register steps to zero on a zero bit. -/
theorem crcBitStep_false_eq_zero_iff (c : Byte) : crcBitStep c false = 0#8 ↔ c = 0#8 := by
  refine ⟨fun h => ?_, fun h => by rw [h]; rfl⟩
  cases h0 : c.getLsbD 0 <;> simp only [crcBitStep, h0, Bool.bne_false, if_true, Bool.false_eq_true, if_false] at h
  case true =>
    have h7 : ((c >>> 1) ^^^ 0x8C#8).getLsbD 7 = true := by simp
    rw [h] at h7
    contradiction
  case false =>
    refine BitVec.eq_of_getLsbD_eq fun k _ => ?_
    cases k with
    | zero => exact h0
    | succ k => simpa [Nat.add_comm] using congrArg (·.getLsbD k) h

/-- Zero bits keep a register that is not zero from becoming zero. -/
theorem crcShift_zeros_eq_zero_iff (n : Nat) (c : Byte) : crcShift n c 0#8 = 0#8 ↔ c = 0#8 := by
  induction n generalizing c with
  | zero => rfl
  | succ n ih => exact (ih _).trans (crcBitStep_false_eq_zero_iff c)

/-- The byte step is eight zero bits after the XOR of register and byte. -/
theorem crcByteStep_eq_crcShift_xor (c x : Byte) : crcByteStep c x = crcShift 8 (c ^^^ x) 0#8 := by
  have h := crcShift_xor 8 (c ^^^ x) 0#8 x
  rwa [BitVec.xor_assoc, BitVec.xor_self, BitVec.xor_zero, BitVec.zero_xor, ← crcShift_eq,
    BitVec.ushiftRight_eq_zero (Nat.le_refl 8), BitVec.xor_zero] at h

theorem crcByteStep_eq_zero_iff (c x : Byte) : crcByteStep c x = 0#8 ↔ x = c := by
  rw [crcByteStep_eq_crcShift_xor, crcShift_zeros_eq_zero_iff, BitVec.xor_eq_zero_iff, eq_comm]

theorem crc8_concat (m : List Byte) (y : Byte) : crc8 (m ++ [y]) = crcByteStep (crc8 m) y := List.foldl_concat ..

/-- Settles O14: the appended byte is one more byte step, which gives zero on the register's own value alone. -/
theorem appendedCrcGivesZero : Obligations.AppendedCrcGivesZero := by
  intro m y
  rw [crc8_concat, crcByteStep_eq_zero_iff]

/-- Settles O12: both byte steps see the same XOR. -/
theorem tableDrivenCrcAgrees : Obligations.TableDrivenCrcAgrees := by
  intro c x
  rw [crcByteStep_eq_crcShift_xor, crcByteStep_eq_crcShift_xor 0x00#8, BitVec.zero_xor]

/-! ### The operations -/

theorem exec_crcBit (b : Bool) (s : State) :
    exec (.crcBit b) s = .next ((s.setCrc (crcBitStep s.crcAcc b)).respond (.result .none)) := rfl

theorem exec_crcByte (x : Byte) (s : State) :
    exec (.crcByte x) s = .next ((s.setCrc (crcByteStep s.crcAcc x)).respond (.result .none)) := rfl

theorem exec_crcSeq (xs : List Byte) (s : State) :
    exec (.crcSeq xs) s = .next (s.respond (.result (.byte (crc8 xs)))) := rfl

theorem exec_crcSeqr (xs : List Byte) (s : State) :
    exec (.crcSeqr xs) s = .next (s.respond (.result (.byte (crc8 xs.reverse)))) := rfl

theorem exec_crcStream (xs : List Byte) (s : State) :
    exec (.crcStream xs) s =
      andThen (exec .crcClr s) fun s => andThen (forEachByte (fun x => exec (.crcByte x)) xs s) (exec .crcRead) := rfl

/-- A register write and a response are overwritten by the next ones. -/
theorem setCrc_respond_overwrites (s : State) (c d : Byte) (x y : Response) :
    (((s.setCrc c).respond x).setCrc d).respond y = (s.setCrc d).respond y := rfl

/-- Settles O11: each operation by its own equation, and CRC_BYTE as the eight bit steps of its fold, each of which
overwrites the register and the response of the one before. -/
theorem crcUnitStreams : Obligations.CrcUnitStreams := by
  intro s b x
  refine ⟨rfl, exec_crcBit b s, ?bits, ⟨_, exec_crcByte x s⟩, rfl⟩
  case bits =>
    simp only [exec_crcBit, andThen, setCrc_respond_overwrites, State.respond_crcAcc, State.setCrc_crcAcc]
    exact exec_crcByte x s

/-- Settles O13: both return the CRC of a list, and the vectors' CRCs are computed. -/
theorem crcOfASequence : Obligations.CrcOfASequence := by
  intro s xs
  have hexample : crc8 [0x10#8, 0x45#8, 0x07#8, 0x36#8, 0x03#8, 0x08#8, 0x00#8] = 0xE7#8 := by decide +kernel
  have hreversed : crc8 [0x00#8, 0x08#8, 0x03#8, 0x36#8, 0x07#8, 0x45#8, 0x10#8] = 0x2D#8 := by decide +kernel
  have hrotated : crc8 [0x01#8, 0x00#8, 0x45#8, 0x07#8, 0x36#8, 0x03#8, 0x08#8] = 0x18#8 := by decide +kernel
  refine ⟨exec_crcSeq xs s, exec_crcSeqr xs s, exec_crcSeqr xs s, exec_crcSeqr [] s, fun x => exec_crcSeqr [x] s,
    ?_, ?_, ?_, ?_⟩
  · rw [exec_crcSeqr, ← hexample]; rfl
  · rw [exec_crcSeqr, ← hreversed]; rfl
  · rw [exec_crcSeq, hexample]
  · rw [exec_crcSeq, hrotated]

theorem execCrcStream_eq (xs : List Byte) (s : State) :
    execCrcStream xs s = .next ((s.setCrc (crc8 xs)).respond (.result (.byte (crc8 xs)))) := by
  obtain ⟨r, hr⟩ := forEachByte_crcByte xs ((s.setCrc 0x00#8).respond (.result .none))
  simp only [execCrcStream, execCrcClr, done, andThen, hr]
  rfl

/-- Settles O15: the fold of CRC_BYTEs after CRC_CLR is the expansion's own sequence, and it leaves the folded register. -/
theorem crcStreamReturnsTheSequence : Obligations.CrcStreamReturnsTheSequence := by
  intro s xs
  refine ⟨?expansion, execCrcStream_eq xs s⟩
  rw [exec_crcStream, foldl_andThen, andThen_assoc]

end Sys2Proof.Proofs
end

section
/-! PROOFS. The address validator (41_address R142 to R150): what each of its operations answers, check by check, in the order
in which the checks are made. -/

namespace Sys2Proof.Proofs
open Sys2Proof Sys2Proof.Machine

/-! ### Generating an address (41_address R143) -/

theorem exec_addrMake (fam : Byte) {ser : List Byte} (h : ser.length = 6) (s : State) :
    exec (.addrMake fam ser) s = .next (s.respond (.result (.addr (addrOf fam ser)))) := if_pos h

/-- Settles O16: the value generated from the family and serial has that byte form and is valid. -/
theorem addrMakeBuildsAValidAddress : Obligations.AddrMakeBuildsAValidAddress := by
  intro s fam ser hser
  exact ⟨addrOf fam ser, exec_addrMake fam hser s, le8_addrOf fam ser hser, addrOf_valid fam ser hser⟩

/-! ### The validator on a byte form and on an accumulator (41_address R144, R145, R148, R149) -/

theorem exec_addrFromBytes_ok {xs : List Byte} {v : Word} (h : addrFromBytes xs = .ok v) (s : State) :
    exec (.addrFromBytes xs) s = .next (s.respond (.result (.addr v))) := by
  show answer ((addrFromBytes xs).map .addr) s = _
  rw [h]; rfl

theorem exec_addrFromBytes_error {xs : List Byte} {e : Err} (h : addrFromBytes xs = .error e) (s : State) :
    exec (.addrFromBytes xs) s = .next (s.respond (.error e)) := by
  show answer ((addrFromBytes xs).map .addr) s = _
  rw [h]; rfl

theorem exec_addrFromSearch (acc : Word) (s : State) :
    exec (.addrFromSearch acc) s = exec (.addrFromBytes (le8 acc)) s := rfl

theorem exec_addrToBytes (v : Word) (s : State) :
    exec (.addrToBytes v) s = .next (s.respond (.result (.bytes (le8 v)))) := rfl

/-- The validator on seven bytes and an eighth: the eighth must be the CRC of the seven. -/
theorem addrFromBytes_concat {m : List Byte} (hm : m.length = 7) (y : Byte) :
    addrFromBytes (m ++ [y]) =
      if crc8 m ≠ y then .error (.crcMismatch (crc8 m) y) else .ok (fromLE (m ++ [y])) := by
  have hlen : (m ++ [y]).length = 8 := by simp [hm]
  have hmessage : (m ++ [y]).take 7 = m := List.take_left' hm
  have hlast : (m ++ [y]).getD 7 0#8 = y := by simp [hm]
  rw [addrFromBytes, if_neg (not_not.2 hlen), hmessage, hlast]

/-- Settles O17: the length is checked first, and of eight bytes the last is compared with the CRC of the others. -/
theorem addrFromBytesValidates : Obligations.AddrFromBytesValidates := by
  intro s xs
  refine ⟨fun hlen => ?length, fun m y hxs hm hcrc => ?mismatch, fun m hxs hm => ?valid⟩
  case length => exact exec_addrFromBytes_error (if_pos hlen) s
  case mismatch =>
    rw [hxs]
    exact exec_addrFromBytes_error ((addrFromBytes_concat hm y).trans (if_pos hcrc)) s
  case valid =>
    have haccepted : addrFromBytes xs = .ok (fromLE xs) := by
      rw [hxs, addrFromBytes_concat hm, if_neg (not_not.2 rfl)]
    obtain ⟨hvalid, -, hlen⟩ := addrFromBytes_valid haccepted
    exact ⟨fromLE xs, exec_addrFromBytes_ok haccepted s, hvalid, by rw [exec_addrToBytes, le8_fromLE xs hlen]⟩

/-- Settles O18: the validator runs on the accumulator's own bytes, where it decides the accumulator's validity. -/
theorem addrFromSearchValidates : Obligations.AddrFromSearchValidates := by
  intro s acc
  rw [exec_addrFromSearch]
  refine ⟨fun h => ?valid, fun h => ?invalid⟩
  case valid => exact exec_addrFromBytes_ok ((addrFromBytes_le8 acc).trans (if_pos h)) s
  case invalid => exact exec_addrFromBytes_error ((addrFromBytes_le8 acc).trans (if_neg h)) s

/-- Dropping the first byte of the reversed byte form drops the CRC byte (41_address R148). -/
theorem reverse_drop_reverse_le8 (v : Word) : ((le8 v).reverse.drop 1).reverse = (le8 v).take 7 := by
  rw [List.reverse_drop, List.reverse_reverse, List.length_reverse, length_le8]

/-- Settles O19: both operations fold the same seven bytes, and both constructors run the same validator. -/
theorem bothByteOrdersAgree : Obligations.BothByteOrdersAgree := by
  intro s v
  refine ⟨?_, exec_addrFromSearch v s⟩
  rw [exec_crcSeqr, reverse_drop_reverse_le8, exec_crcSeq]

/-! ### Validity and the fields of a value (41_address R140, R142, R146, R147) -/

theorem le8_eq_take_concat (v : Word) : le8 v = (le8 v).take 7 ++ [addrCrc v] := rfl

/-- Settles O20: the CRC field is the byte appended to the first seven. -/
theorem validIffResidueIsZero : Obligations.ValidIffResidueIsZero := by
  intro v
  rw [le8_eq_take_concat v, appendedCrcGivesZero]

/-- Settles O21: the byte form and the three fields are cut out of the value as it is. -/
theorem addrAccessorsReadTheFields : Obligations.AddrAccessorsReadTheFields :=
  fun s v => ⟨exec_addrToBytes v s, rfl⟩

/-! ### The checks of a text, in order (41_address R150) -/

theorem parseAddress_of_length_ne {cs : List Char} (h : (splitDots cs).length ≠ 3) :
    parseAddress cs = .error (.invalidFormat (splitDots cs).length) := by
  unfold parseAddress
  split
  next hfields => exact absurd (congrArg List.length hfields) h
  next => rfl

theorem parseAddress_of_badFamily {cs f g c : List Char} (hcs : splitDots cs = [f, g, c])
    (hf : ∀ fam, hexField f ≠ some [fam]) : parseAddress cs = .error .invalidFamily := by
  rw [parseAddress, hcs]
  dsimp only
  split
  next fam hfam => exact absurd hfam (hf fam)
  next => rfl

theorem parseAddress_of_badSerial {cs f g c : List Char} {fam : Byte} (hcs : splitDots cs = [f, g, c])
    (hf : hexField f = some [fam]) (hg : ∀ ser, hexField g = some ser → ¬(1 ≤ ser.length ∧ ser.length ≤ 6)) :
    parseAddress cs = .error .invalidSerial := by
  simp only [parseAddress, hcs, hf]
  split
  next ser hser => exact if_neg (hg ser hser)
  next => rfl

/-- With a good family and serial only the CRC field is left to check. -/
theorem parseAddress_of_fields {cs f g c : List Char} {fam : Byte} {ser : List Byte} (hcs : splitDots cs = [f, g, c])
    (hf : hexField f = some [fam]) (hg : hexField g = some ser) (hser : 1 ≤ ser.length ∧ ser.length ≤ 6) :
    parseAddress cs = parseCrc (addrOf fam (padSerial ser)) c := by
  simp only [parseAddress, hcs, hf, hg]
  exact if_pos hser

theorem length_padSerial {ser : List Byte} (h : ser.length ≤ 6) : (padSerial ser).length = 6 := by
  rw [padSerial, List.length_append, List.length_replicate, Nat.sub_add_cancel h]

theorem parseCrc_dashes (v : Word) : parseCrc v ['-', '-'] = .ok v := if_pos rfl

theorem parseCrc_of_badField {v : Word} {c : List Char} (hc : c ≠ ['-', '-']) (h : ∀ y, hexField c ≠ some [y]) :
    parseCrc v c = .error .invalidCrc := by
  rw [parseCrc, if_neg hc]
  split
  next y hy => exact absurd hy (h y)
  next => rfl

/-- A CRC field of one byte is compared with the address (30_encoding R113). -/
theorem parseCrc_of_byte {v : Word} {c : List Char} {y : Byte} (hc : c ≠ ['-', '-']) (h : hexField c = some [y]) :
    parseCrc v c = if addrCrc v ≠ y then .error (.crcMismatch (addrCrc v) y) else .ok v := by
  rw [parseCrc, if_neg hc, h]

/-- Settles O22, check by check: a text that passes the first three is left to the check of its CRC field, against the address
generated from the family and the padded serial. -/
theorem addrParseChecksInOrder : Obligations.AddrParseChecksInOrder := by
  intro s cs
  refine ⟨fun h => ?format, fun f g c hcs =>
    ⟨fun hf => ?family, fun fam hf => ⟨fun hg => ?serial, fun ser hg h1 h6 => ?crc⟩⟩⟩
  case format => exact exec_addrParse_error (parseAddress_of_length_ne h) s
  case family => exact exec_addrParse_error (parseAddress_of_badFamily hcs hf) s
  case serial => exact exec_addrParse_error (parseAddress_of_badSerial hcs hf hg) s
  case crc =>
    have hparse := parseAddress_of_fields hcs hf hg ⟨h1, h6⟩
    refine ⟨addrOf fam (padSerial ser), le8_addrOf fam _ (length_padSerial h6), fun hc => ?skipped,
      fun hc hbad => ?badField, fun y hc hy hne => ?mismatch, fun hc hy => ?equal⟩
    case skipped =>
      subst hc
      exact exec_addrParse_ok (hparse.trans (parseCrc_dashes _)) s
    case badField => exact exec_addrParse_error (hparse.trans (parseCrc_of_badField hc hbad)) s
    case mismatch => exact exec_addrParse_error (hparse.trans ((parseCrc_of_byte hc hy).trans (if_pos hne.symm))) s
    case equal => exact exec_addrParse_ok (hparse.trans ((parseCrc_of_byte hc hy).trans (if_neg (not_not.2 rfl)))) s

end Sys2Proof.Proofs
end

section
/-! PROOFS. The search encoder and the one-shot decoder (42_search_codec R161 to R167): a request is known by the two bits of
each lane, and the decoder's position by its first open lane. -/

namespace Sys2Proof.Proofs
open Sys2Proof Sys2Proof.Machine

/-! ### The lanes of a request (42_search_codec R160 to R162) -/

theorem rBit_vector (t : Word) (last : Nat) {i : Nat} (hi : i < 64) :
    (fromLE16 (encodeSearch .vector t last)).getLsbD (2 * i + 1) = (decide (i ≤ last) && t.getLsbD i) := by
  rw [frame_bit _ _ _ _ (by omega), requestBit_vector_r]

theorem dBit_vector (t : Word) (last : Nat) {i : Nat} (hi : i < 64) :
    (fromLE16 (encodeSearch .vector t last)).getLsbD (2 * i) = (decide (last < 64) && decide (i = last)) := by
  rw [frame_bit _ _ _ _ (by omega), requestBit_vector_d]

/-- A lane below 64 is lane `last` only if `last` is below 64, so the marker needs no test of its own. -/
theorem rBit_prose (t : Word) (last : Nat) {i : Nat} (hi : i < 64) :
    (fromLE16 (encodeSearch .prose t last)).getLsbD (2 * i + 1) =
      ((decide (i < last) && t.getLsbD i) || decide (i = last)) := by
  rw [frame_bit _ _ _ _ (by omega), requestBit_prose_r]
  by_cases h : i = last
  · subst h; simp [hi]
  · simp [h]

theorem dBit_prose (t : Word) (last : Nat) {i : Nat} (hi : i < 64) :
    (fromLE16 (encodeSearch .prose t last)).getLsbD (2 * i) = false := by
  rw [frame_bit _ _ _ _ (by omega), requestBit_prose_d]

/-- Requests with the same bits in every lane are equal. -/
theorem encodeSearch_eq_of_lanes {v w : EncVariant} {t u : Word} {m n : Nat}
    (hd : ∀ i < 64, (fromLE16 (encodeSearch v t m)).getLsbD (2 * i) = (fromLE16 (encodeSearch w u n)).getLsbD (2 * i))
    (hr : ∀ i < 64, (fromLE16 (encodeSearch v t m)).getLsbD (2 * i + 1) =
      (fromLE16 (encodeSearch w u n)).getLsbD (2 * i + 1)) :
    encodeSearch v t m = encodeSearch w u n := by
  refine congrArg le16 (BitVec.eq_of_getLsbD_eq fun k hk => ?_)
  simp only [encodeSearch, fromLE16_le16] at hd hr
  rcases Nat.mod_two_eq_zero_or_one k with h | h
  · rw [show k = 2 * (k / 2) by omega]; exact hd _ (by omega)
  · rw [show k = 2 * (k / 2) + 1 by omega]; exact hr _ (by omega)

theorem exec_encSearch {last : Nat} (h : last ≤ 64) (t : Word) (s : State) :
    exec (.encSearch t last) s = .next (s.respond (.result (.bytes (encodeSearch s.encVariant t last)))) := if_pos h

/-- Settles O25: the two bits of each lane of the encoded frame. -/
theorem vectorRequestLanes : Obligations.VectorRequestLanes := by
  intro s t last hv
  refine ⟨fun h => (exec_position_outside t s h).1, fun h => ⟨_, exec_encSearch h t s, length_encodeSearch _ _ _, ?_⟩⟩
  rw [hv]
  exact fun i hi => ⟨rBit_vector t last hi, dBit_vector t last hi⟩

/-- Settles O26: the two bits of each lane of the encoded frame. -/
theorem proseRequestLanes : Obligations.ProseRequestLanes := by
  intro s t last hv h
  refine ⟨_, exec_encSearch h t s, length_encodeSearch _ _ _, ?_⟩
  rw [hv]
  exact fun i hi => ⟨rBit_prose t last hi, dBit_prose t last hi⟩

/-! ### No marker in a request (42_search_codec R163) -/

/-- A request has at most one d-bit, so two lanes of one byte never hold one both. -/
theorem requestBit_d_unique (variant : EncVariant) (t : Word) (last : Nat) {i j : Nat} (hij : i ≠ j) :
    ¬(requestBit variant t last (2 * i) = true ∧ requestBit variant t last (2 * j) = true) := by
  cases variant with
  | vector =>
    simp only [requestBit_vector_d, Bool.and_eq_true, decide_eq_true_eq]
    omega
  | prose => simp [requestBit_prose_d]

/-- Bits 0 and 6 of a byte are the d-bits of two of its lanes. -/
theorem requestByte_dBits {variant : EncVariant} {t : Word} {last : Nat} {b : Byte} (hb : b ∈ encodeSearch variant t last) :
    ¬(b.getLsbD 0 = true ∧ b.getLsbD 6 = true) := by
  obtain ⟨k, hk, rfl⟩ := List.mem_map.1 hb
  have hk : k < 16 := List.mem_range.1 hk
  have hbits := requestBit_d_unique variant t last (show 4 * k ≠ 4 * k + 3 by omega)
  rw [show 2 * (4 * k) = 8 * k + 0 by omega, show 2 * (4 * k + 3) = 8 * k + 6 by omega] at hbits
  rw [BitVec.getLsbD_extractLsb', BitVec.getLsbD_extractLsb', getLsbD_ofBits, getLsbD_ofBits,
    decide_eq_true (show 8 * k + 0 < 128 by omega), decide_eq_true (show 8 * k + 6 < 128 by omega)]
  exact hbits

/-- Settles O27: both markers have bits 0 and 6 set. -/
theorem requestHoldsNoMarker : Obligations.RequestHoldsNoMarker := by
  intro variant t last b hb
  have hbits := requestByte_dBits hb
  constructor
  · rintro rfl; exact hbits (by decide)
  · rintro rfl; exact hbits (by decide)

/-! ### What a request depends on (42_search_codec R164) -/

/-- Settles O28: the r-bits of a VECTOR request are the tree bits up to `last`, all of them at 64; below 64 the d-bit of lane
`last` tells the variants apart. -/
theorem requestDependsOnTheDecidedBits : Obligations.RequestDependsOnTheDecidedBits := by
  refine ⟨fun t u last _ h => ?decided, fun t u h => ?injective, fun t last h => ⟨fun heq => ?apart, fun h64 => ?agree⟩⟩
  case decided =>
    refine encodeSearch_eq_of_lanes (fun i hi => ?_) fun i hi => ?_
    · rw [dBit_vector t last hi, dBit_vector u last hi]
    · rw [rBit_vector t last hi, rBit_vector u last hi]
      by_cases hle : i ≤ last
      · rw [h i hle]
      · simp [hle]
  case injective =>
    refine BitVec.eq_of_getLsbD_eq fun i hi => ?_
    have hbit := congrArg (fun q => (fromLE16 q).getLsbD (2 * i + 1)) h
    simpa only [rBit_vector _ _ hi, decide_eq_true hi.le, Bool.true_and] using hbit
  case apart =>
    by_contra hne
    have hlt : last < 64 := by omega
    have hd := dBit_vector t last hlt
    rw [heq, dBit_prose t last hlt] at hd
    simp [hlt] at hd
  case agree =>
    subst h64
    refine encodeSearch_eq_of_lanes (fun i hi => ?_) fun i hi => ?_
    · rw [dBit_vector t 64 hi, dBit_prose t 64 hi]; simp
    · rw [rBit_vector t 64 hi, rBit_prose t 64 hi]; simp [hi, hi.le, hi.ne]

/-! ### The decoder (42_search_codec R165, R166) -/

theorem laneOpen_eq_true_iff (f : BitVec 128) (i : Nat) :
    laneOpen f i = true ↔ f.getLsbD (2 * i) = true ∧ f.getLsbD (2 * i + 1) = false := by simp [laneOpen]

theorem laneOpen_eq_false_iff (f : BitVec 128) (i : Nat) :
    laneOpen f i = false ↔ ¬(f.getLsbD (2 * i) = true ∧ f.getLsbD (2 * i + 1) = false) := by
  rw [← laneOpen_eq_true_iff, Bool.not_eq_true]

theorem exec_decSearch {rs : List Byte} (h : rs.length = 16) (s : State) :
    exec (.decSearch rs) s = .next (s.respond (.result (.decoded (decodeSearch rs).1 (decodeSearch rs).2))) := if_pos h

/-- Settles O29: the accumulator's bit of an open lane is its r-bit, which is 0. -/
theorem decoderReadsTheLanes : Obligations.DecoderReadsTheLanes := by
  intro s rs
  refine ⟨fun h => (exec_response_outside s h).1, fun h => ⟨_, _, exec_decSearch h s, ?_⟩⟩
  obtain ⟨hacc, hpos⟩ := decodeSearch_spec rs
  refine ⟨hacc, hpos.imp (fun ⟨h64, hnone⟩ => ?none) fun ⟨hlt, hopen, hbelow⟩ => ?first⟩
  case none => exact ⟨h64, fun i hi => (laneOpen_eq_false_iff _ i).1 (hnone i hi)⟩
  case first =>
    obtain ⟨hd, hr⟩ := (laneOpen_eq_true_iff _ _).1 hopen
    exact ⟨hlt, hd, hr, (hacc _ hlt).trans hr, fun i hi => (laneOpen_eq_false_iff _ i).1 (hbelow i hi)⟩

theorem decodeSearch_position_of_first {rs : List Byte} {i : Nat} (hi : i < 64) (hopen : laneOpen (fromLE16 rs) i = true)
    (hbelow : ∀ j < i, laneOpen (fromLE16 rs) j = false) : (decodeSearch rs).2 = i := by
  have hfind : (List.range 64).find? (laneOpen (fromLE16 rs)) = some i :=
    List.find?_range_eq_some.2 ⟨hopen, List.mem_range.2 hi, fun j hj => by rw [hbelow j hj]; rfl⟩
  rw [decodeSearch, hfind, Option.getD_some]

theorem decodeSearch_position_of_none {rs : List Byte} (h : ∀ i < 64, laneOpen (fromLE16 rs) i = false) :
    (decodeSearch rs).2 = 64 := by
  have hfind : (List.range 64).find? (laneOpen (fromLE16 rs)) = none :=
    List.find?_eq_none.2 fun i hi => by simp [h i (List.mem_range.1 hi)]
  rw [decodeSearch, hfind, Option.getD_none]

/-! ### Decoding a request (42_search_codec R167) -/

/-- The mask of the bits below `n`; from 64 on the shifted bit is lost and the difference is all ones. -/
theorem getLsbD_lowMask (n : Nat) {i : Nat} (hi : i < 64) : ((1#64 <<< n) - 1#64).getLsbD i = decide (i < n) := by
  have hmask : (1#64 <<< n) - 1#64 = BitVec.ofNat 64 (2 ^ n - 1) := by
    have hpow := Nat.one_le_two_pow (n := n)
    apply BitVec.eq_of_toNat_eq
    rw [BitVec.toNat_sub, BitVec.toNat_shiftLeft, BitVec.toNat_ofNat, BitVec.toNat_ofNat, Nat.shiftLeft_eq]
    omega
  rw [hmask, BitVec.getLsbD_ofNat, Nat.testBit_two_pow_sub_one, decide_eq_true hi, Bool.true_and]

theorem getLsbD_maskUpTo (last : Nat) {i : Nat} (hi : i < 64) : (maskUpTo last).getLsbD i = decide (i ≤ last) := by
  unfold maskUpTo
  split
  next h64 => rw [h64, BitVec.getLsbD_allOnes, decide_eq_true hi, decide_eq_true hi.le]
  next => rw [getLsbD_lowMask _ hi]; exact decide_eq_decide.2 Nat.lt_succ_iff

/-- The mask R167 gives for PROSE. -/
theorem getLsbD_maskBelow (last : Nat) {i : Nat} (hi : i < 64) :
    (if last = 64 then BitVec.allOnes 64 else (1#64 <<< last) - 1#64).getLsbD i = decide (i < last) := by
  split
  next h64 => rw [h64, BitVec.getLsbD_allOnes]
  next => exact getLsbD_lowMask last hi

/-- The one bit R167 adds for PROSE. -/
theorem getLsbD_markerBit {last i : Nat} (hi : i < 64) :
    (if last < 64 then 1#64 <<< last else 0#64).getLsbD i = decide (i = last) := by
  split
  next h => exact getLsbD_one_shiftLeft last i h
  next h => simp; omega

theorem laneOpen_vector (t : Word) (last : Nat) {i : Nat} (hi : i < 64) :
    laneOpen (fromLE16 (encodeSearch .vector t last)) i = (decide (i = last) && !t.getLsbD i) := by
  rw [laneOpen, dBit_vector t last hi, rBit_vector t last hi]
  by_cases h : i = last
  · subst h; simp [hi]
  · simp [h]

theorem decodeSearch_vector_acc (t : Word) (last : Nat) :
    (decodeSearch (encodeSearch .vector t last)).1 = t &&& maskUpTo last := by
  refine BitVec.eq_of_getLsbD_eq fun i hi => ?_
  rw [(decodeSearch_spec _).1 i hi, rBit_vector t last hi, BitVec.getLsbD_and, getLsbD_maskUpTo last hi, Bool.and_comm]

/-- Only lane `last` can be open, and it is when its tree bit is 0. -/
theorem decodeSearch_vector_position (t : Word) (last : Nat) :
    (decodeSearch (encodeSearch .vector t last)).2 = if last < 64 ∧ t.getLsbD last = false then last else 64 := by
  split
  next h =>
    obtain ⟨hlt, hbit⟩ := h
    refine decodeSearch_position_of_first hlt ?_ fun j hj => ?_
    · rw [laneOpen_vector t last hlt, hbit]; simp
    · rw [laneOpen_vector t last (by omega)]; simp [hj.ne]
  next h =>
    refine decodeSearch_position_of_none fun i hi => ?_
    rw [laneOpen_vector t last hi]
    by_cases hlast : i = last
    · subst hlast; simpa [hi] using h
    · simp [hlast]

theorem decodeSearch_prose_acc (t : Word) (last : Nat) :
    (decodeSearch (encodeSearch .prose t last)).1 =
      (t &&& (if last = 64 then BitVec.allOnes 64 else (1#64 <<< last) - 1#64)) |||
        (if last < 64 then 1#64 <<< last else 0#64) := by
  refine BitVec.eq_of_getLsbD_eq fun i hi => ?_
  rw [(decodeSearch_spec _).1 i hi, rBit_prose t last hi, BitVec.getLsbD_or, BitVec.getLsbD_and, getLsbD_maskBelow last hi,
    getLsbD_markerBit hi, Bool.and_comm]

/-- A PROSE request has no d-bit, so no lane is open. -/
theorem decodeSearch_prose_position (t : Word) (last : Nat) : (decodeSearch (encodeSearch .prose t last)).2 = 64 :=
  decodeSearch_position_of_none fun _ hi => by rw [laneOpen, dBit_prose t last hi, Bool.false_and]

/-- Settles O30: the accumulator and the position of each variant's request. -/
theorem requestRoundTrip : Obligations.RequestRoundTrip := fun t last _ =>
  ⟨Prod.ext (decodeSearch_vector_acc t last) (decodeSearch_vector_position t last),
    Prod.ext (decodeSearch_prose_acc t last) (decodeSearch_prose_position t last)⟩

end Sys2Proof.Proofs
end

section
/-! PROOFS. The bit-serial parser (42_search_codec R168 to R173): two bits are one lane, and after each lane the registers
hold what the one-shot decoder gives for the lanes so far. -/

namespace Sys2Proof.Proofs
open Sys2Proof Sys2Proof.Machine

/-! ### The operations -/

theorem exec_prsClr (s : State) : exec .prsClr s = .next ((s.setPrs Parser.start).respond (.result .none)) := rfl

theorem exec_prsRead (s : State) :
    exec .prsRead s = .next (s.respond (.result (.parser s.prs.acc s.prs.nxt s.prs.idx s.prs.done))) := rfl

theorem exec_prsBit_full {s : State} (h : s.prs.idx = 128#8) (b : Bool) : exec (.prsBit b) s = .refused .parserFull :=
  if_pos (by simpa [Parser.done] using h)

theorem exec_prsBit {s : State} (h : s.prs.idx ≠ 128#8) (b : Bool) :
    exec (.prsBit b) s = .next ((s.setPrs (s.prs.feedBit b)).respond (.result .none)) :=
  if_neg (by simpa [Parser.done] using h)

theorem exec_prsByte_full {s : State} (h : s.prs.idx > 120#8) (x : Byte) : exec (.prsByte x) s = .refused .parserFull :=
  if_pos h

theorem exec_prsByte {s : State} (h : s.prs.idx ≤ 120#8) (x : Byte) :
    exec (.prsByte x) s = .next ((s.setPrs (s.prs.feedByte x)).respond (.result .none)) :=
  if_neg (BitVec.not_lt.2 h)

/-- Settles O31: both operations by their own equations. -/
theorem parserClearsAndReads : Obligations.ParserClearsAndReads := fun s => ⟨exec_prsClr s, exec_prsRead s⟩

/-! ### One bit (42_search_codec R170) -/

theorem feedBit_of_even {p : Parser} (h : p.idx.getLsbD 0 = false) (b : Bool) :
    p.feedBit b = { p with dl := b, idx := p.idx + 1#8 } := if_pos h

theorem feedBit_of_odd {p : Parser} (h : p.idx.getLsbD 0 = true) (b : Bool) :
    p.feedBit b =
      { p with
        acc := if b then p.acc ||| (1#64 <<< (p.idx >>> 1).toNat) else p.acc
        nxt := if p.dl && !b && p.nxt == 64#7 then (p.idx >>> 1).setWidth 7 else p.nxt
        idx := p.idx + 1#8 } := if_neg (by simp [h])

/-- An r-bit sets the accumulator's bit of its lane; a lane above 63 has none. -/
theorem getLsbD_setLane (acc : Word) (b : Bool) (k : Nat) {j : Nat} (hj : j < 64) :
    (if b then acc ||| (1#64 <<< k) else acc).getLsbD j = (acc.getLsbD j || (b && decide (j = k))) := by
  cases b with
  | false => simp
  | true =>
    rw [if_pos rfl, ← BitVec.twoPow_eq, BitVec.getLsbD_or, BitVec.getLsbD_twoPow, Bool.true_and, ← Bool.decide_and]
    congr 1
    exact decide_eq_decide.2 (by omega)

/-- Settles O32: the bit's step at an even and at an odd index. -/
theorem parserTakesABit : Obligations.ParserTakesABit := by
  intro s b
  refine ⟨fun h => exec_prsBit_full h b, fun h => ⟨_, exec_prsBit h b, feedBit_idx _ b,
    fun heven => ?even, fun hodd => ?odd⟩⟩
  case even => rw [feedBit_of_even heven]; exact ⟨rfl, rfl, rfl⟩
  case odd =>
    rw [feedBit_of_odd hodd]
    refine ⟨rfl, fun j hj => getLsbD_setLane _ b _ hj, fun hfirst => if_pos ?_, fun hother => if_neg ?_⟩
    · simpa [and_assoc] using hfirst
    · simpa [and_assoc] using hother

/-! ### One byte (42_search_codec R171) -/

/-- PRS_BITs within the capacity, after an operation that has answered: each overwrites the parser and the response of the
one before. -/
theorem foldl_prsBit (x : Byte) (ks : List Nat) (s : State) (p : Parser) (h : p.idx.toNat + ks.length ≤ 128) :
    ks.foldl (fun o k => andThen o (exec (.prsBit (x.getLsbD k)))) (.next ((s.setPrs p).respond (.result .none))) =
      .next ((s.setPrs (ks.foldl (fun p k => p.feedBit (x.getLsbD k)) p)).respond (.result .none)) := by
  induction ks generalizing p with
  | nil => rfl
  | cons k ks ih =>
    rw [List.length_cons] at h
    have hroom : p.idx ≠ 128#8 := by bv_omega
    have hidx : (p.feedBit (x.getLsbD k)).idx.toNat = p.idx.toNat + 1 := by rw [feedBit_idx]; bv_omega
    have hstep : exec (.prsBit (x.getLsbD k)) ((s.setPrs p).respond (.result .none)) =
        .next ((s.setPrs (p.feedBit (x.getLsbD k))).respond (.result .none)) := exec_prsBit hroom _
    rw [List.foldl_cons, List.foldl_cons, andThen, hstep]
    exact ih _ (by omega)

/-- Settles O33: PRS_BYTE feeds the eight bits of its fold, the first to the state as it is. -/
theorem parserByteIsEightBits : Obligations.ParserByteIsEightBits := by
  intro s x
  refine ⟨fun h => exec_prsByte_full h x, fun h => ⟨⟨_, exec_prsByte h x, feedByte_idx _ x⟩, ?_⟩⟩
  have hroom : s.prs.idx ≠ 128#8 := by bv_omega
  have hidx : (s.prs.feedBit (x.getLsbD 0)).idx.toNat + [1, 2, 3, 4, 5, 6, 7].length ≤ 128 := by
    rw [feedBit_idx]; simp only [List.length]; bv_omega
  rw [show List.range 8 = [0, 1, 2, 3, 4, 5, 6, 7] from rfl, List.foldl_cons, andThen, exec_prsBit hroom,
    foldl_prsBit x _ s _ hidx, exec_prsByte h]
  rfl

/-! ### The lanes read so far (42_search_codec R173) -/

/-- The lowest open lane below `n`, or 64: over all 64 lanes, the one-shot decoder's position. -/
def firstOpen (f : BitVec 128) (n : Nat) : Nat := ((List.range n).find? (laneOpen f)).getD 64

/-- One lane more changes the first open lane only if none was open before: the parser's test of the sentinel 64. -/
theorem firstOpen_succ (f : BitVec 128) {n : Nat} (hn : n ≤ 64) :
    firstOpen f (n + 1) = if laneOpen f n && firstOpen f n == 64 then n else firstOpen f n := by
  unfold firstOpen
  rw [List.range_succ, List.find?_append]
  cases hfind : (List.range n).find? (laneOpen f) with
  | none => cases hopen : laneOpen f n <;> simp [hopen]
  | some j =>
    have hj : j < n := List.mem_range.1 (List.mem_of_find?_eq_some hfind)
    simp [show j ≠ 64 by omega]

theorem firstOpen_le (f : BitVec 128) {n : Nat} (hn : n ≤ 64) : firstOpen f n ≤ 64 := by
  induction n with
  | zero => exact le_rfl
  | succ n ih =>
    rw [firstOpen_succ f (by omega)]
    split
    · omega
    · exact ih (by omega)

theorem decodeSearch_position (rs : List Byte) : (decodeSearch rs).2 = firstOpen (fromLE16 rs) 64 := rfl

/-- The parser has read the first `n` lanes of a frame: PRS_ACC holds their r-bits and PRS_NXT the first open one of them. -/
structure HasRead (f : BitVec 128) (n : Nat) (p : Parser) : Prop where
  idx : p.idx = BitVec.ofNat 8 (2 * n)
  acc : p.acc = ofBits 64 fun i => decide (i < n) && f.getLsbD (2 * i + 1)
  nxt : p.nxt = BitVec.ofNat 7 (firstOpen f n)

theorem hasRead_start (f : BitVec 128) : HasRead f 0 Parser.start where
  idx := rfl
  acc := BitVec.eq_of_getLsbD_eq fun i _ => by simp [Parser.start]
  nxt := rfl

/-- Two bits at an even index are one lane (42_search_codec R160, R170). -/
theorem feedLane_eq {p : Parser} {n : Nat} (hn : n < 64) (h : p.idx = BitVec.ofNat 8 (2 * n)) (d r : Bool) :
    (p.feedBit d).feedBit r =
      { idx := BitVec.ofNat 8 (2 * (n + 1))
        acc := if r then p.acc ||| (1#64 <<< n) else p.acc
        nxt := if d && !r && p.nxt == 64#7 then BitVec.ofNat 7 n else p.nxt
        dl := d } := by
  have heven : p.idx.getLsbD 0 = false := by rw [getLsbD_zero_idx, h]; exact decide_eq_false (by bv_omega)
  have hodd : (p.idx + 1#8).getLsbD 0 = true := by rw [getLsbD_zero_idx, h]; exact decide_eq_true (by bv_omega)
  have hidx : p.idx + 1#8 + 1#8 = BitVec.ofNat 8 (2 * (n + 1)) := by bv_omega
  have hlane : (p.idx + 1#8) >>> 1 = BitVec.ofNat 8 n := by bv_omega
  rw [feedBit_of_even heven, feedBit_of_odd hodd, hidx, hlane, BitVec.toNat_ofNat, Nat.mod_eq_of_lt (by omega),
    BitVec.setWidth_ofNat_of_le (by omega)]

theorem HasRead.lane {f : BitVec 128} {n : Nat} {p : Parser} {d r : Bool} (h : HasRead f n p) (hn : n < 64)
    (hd : d = f.getLsbD (2 * n)) (hr : r = f.getLsbD (2 * n + 1)) : HasRead f (n + 1) ((p.feedBit d).feedBit r) := by
  subst hd hr
  rw [feedLane_eq hn h.idx]
  refine ⟨rfl, ?acc, ?nxt⟩
  case acc =>
    refine BitVec.eq_of_getLsbD_eq fun i hi => ?_
    rw [getLsbD_setLane _ _ _ hi, h.acc, getLsbD_ofBits, getLsbD_ofBits, decide_eq_true hi, Bool.true_and, Bool.true_and]
    rcases Nat.lt_trichotomy i n with hlt | rfl | hgt
    · simp [hlt, hlt.ne, Nat.lt_succ_of_lt hlt]
    · simp
    · simp [hgt.ne', hgt.not_gt, show ¬i < n + 1 by omega]
  case nxt =>
    have hsentinel : (BitVec.ofNat 7 (firstOpen f n) == 64#7) = (firstOpen f n == 64) := by
      have hle := firstOpen_le f hn.le
      rw [beq_eq_beq]
      bv_omega
    rw [h.nxt, hsentinel, firstOpen_succ f hn.le, apply_ite (BitVec.ofNat 7)]
    rfl

/-- A byte is four lanes. -/
theorem HasRead.byte {f : BitVec 128} {k : Nat} {p : Parser} {x : Byte} (h : HasRead f (4 * k) p) (hk : k < 16)
    (hx : ∀ i j, j < 8 → i = 8 * k + j → x.getLsbD j = f.getLsbD i) : HasRead f (4 * (k + 1)) (p.feedByte x) := by
  have h1 := h.lane (by omega) (hx _ 0 (by omega) (by omega)) (hx _ 1 (by omega) (by omega))
  have h2 := h1.lane (by omega) (hx _ 2 (by omega) (by omega)) (hx _ 3 (by omega) (by omega))
  have h3 := h2.lane (by omega) (hx _ 4 (by omega) (by omega)) (hx _ 5 (by omega) (by omega))
  exact h3.lane (by omega) (hx _ 6 (by omega) (by omega)) (hx _ 7 (by omega) (by omega))

theorem hasRead_take {rs : List Byte} (hlen : rs.length = 16) (n : Nat) (hn : n ≤ 16) :
    HasRead (fromLE16 rs) (4 * n) ((rs.take n).foldl Parser.feedByte Parser.start) := by
  induction n with
  | zero => exact hasRead_start _
  | succ n ih =>
    have hlt : n < rs.length := by omega
    rw [List.take_succ_eq_append_getElem hlt, List.foldl_concat]
    refine (ih (by omega)).byte (by omega) fun i j hj hi => ?_
    rw [getLsbD_fromLE16 _ _ (by omega), show i / 8 = n by omega, show i % 8 = j by omega,
      List.getD_eq_getElem _ _ hlt]

/-- After the last lane the registers hold the one-shot decoder's results. -/
theorem hasRead_all {rs : List Byte} {p : Parser} (h : HasRead (fromLE16 rs) 64 p) :
    p.acc = (decodeSearch rs).1 ∧ p.nxt.toNat = (decodeSearch rs).2 ∧ p.idx = 128#8 := by
  refine ⟨?acc, ?nxt, h.idx⟩
  case acc =>
    refine BitVec.eq_of_getLsbD_eq fun i hi => ?_
    rw [h.acc, getLsbD_ofBits, (decodeSearch_spec rs).1 i hi, decide_eq_true hi, Bool.true_and, Bool.true_and]
  case nxt =>
    rw [h.nxt, decodeSearch_position]
    exact Nat.mod_eq_of_lt (Nat.lt_of_le_of_lt (firstOpen_le _ le_rfl) (by decide))

/-! ### The stream (30_encoding R116, 42_search_codec R173) -/

theorem exec_prsStream {rs : List Byte} (h : rs.length = 16) (s : State) :
    exec (.prsStream rs) s =
      andThen (exec .prsClr s) fun s => andThen (forEachByte (fun x => exec (.prsByte x)) rs s) (exec .prsRead) := if_pos h

theorem execPrsStream_eq {rs : List Byte} {p : Parser} (h : rs.length = 16)
    (hp : rs.foldl Parser.feedByte Parser.start = p) (s : State) :
    execPrsStream rs s = .next ((s.setPrs p).respond (.result (.parser p.acc p.nxt p.idx p.done))) := by
  subst hp
  have hroom : Parser.start.idx.toNat + 8 * rs.length ≤ 128 := by rw [h]; decide
  obtain ⟨r, hr⟩ := forEachByte_prsByte rs ((s.setPrs Parser.start).respond (.result .none)) hroom
  simp only [execPrsStream, if_pos h, execPrsClr, done, andThen, hr]
  rfl

/-- Settles O34: the fold of PRS_BYTEs after PRS_CLR is the expansion's own sequence, and the parser it leaves has read all
lanes of the frame. -/
theorem parserStreamMatchesTheDecoder : Obligations.ParserStreamMatchesTheDecoder := by
  intro s rs hlen
  refine ⟨?expansion, ?result⟩
  case expansion => rw [exec_prsStream hlen, foldl_andThen, andThen_assoc]
  case result =>
    have hread := hasRead_take hlen 16 le_rfl
    rw [List.take_of_length_le hlen.le] at hread
    obtain ⟨hacc, hnxt, hidx⟩ := hasRead_all hread
    refine ⟨_, (execPrsStream_eq hlen rfl s).trans ?_, hacc, hnxt, hidx⟩
    rw [Parser.done, hidx]
    rfl

end Sys2Proof.Proofs
end

section
/-! PROOFS. CONFIGURE (43_frame_mode R197, R198): the first illegal field in check order decides the answer, and a record without
one stores the position of each value in its table. -/

namespace Sys2Proof.Proofs
open Sys2Proof Sys2Proof.Machine

/-! ### The check of a record -/

theorem isNone_cfgCode_iff (f : CfgField) (v : CfgValue) : (cfgCode f v).isNone = true ↔ v ∉ cfgLegal f := by
  rw [mem_cfgLegal, Option.isNone_iff_eq_none, Option.not_isSome_iff_eq_none]

theorem firstIllegal_eq_none {p : CfgRecord} (h : ∀ f, cfgGet p f ∈ cfgLegal f) : firstIllegal p = none :=
  List.find?_eq_none.2 fun f _ hf => (isNone_cfgCode_iff f _).1 hf (h f)

theorem firstIllegal_eq_some {p : CfgRecord} {f : CfgField} {before after : List CfgField}
    (hsplit : cfgOrder = before ++ f :: after) (hbefore : ∀ g ∈ before, cfgGet p g ∈ cfgLegal g)
    (hf : cfgGet p f ∉ cfgLegal f) : firstIllegal p = some f := by
  refine List.find?_eq_some_iff_append.2 ⟨(isNone_cfgCode_iff f _).2 hf, before, after, hsplit, fun g hg => ?_⟩
  rw [Bool.not_eq_true', Bool.eq_false_iff, Ne, isNone_cfgCode_iff, not_not]
  exact hbefore g hg

theorem exec_configure_legal {p : CfgRecord} (h : firstIllegal p = none) (s : State) :
    exec (.configure p) s = .next ((s.setSession (sessionOf p)).respond (.result .none)) := by
  simp only [exec, execConfigure, h, done]

theorem exec_configure_illegal {p : CfgRecord} {f : CfgField} (h : firstIllegal p = some f) (s : State) :
    exec (.configure p) s = .next (s.respond (.error (.configValidation f (cfgGet p f) (cfgLegal f)))) := by
  simp only [exec, execConfigure, h]

/-! ### The codes of a record -/

/-- A code counted from the start of a table, stored in a register wide enough for it, is the position of its value. -/
theorem getElem?_storedCode {l legal : List CfgValue} {v : CfgValue} {c : Nat} (hl : l <+: legal) (h : (v, c) ∈ codesFrom0 l)
    (w : Nat) (hw : l.length ≤ 2 ^ w) : legal[(BitVec.ofNat w c).toNat]? = some v := by
  have hpos := getElem?_of_mem_codesFrom0 h
  obtain ⟨hc, -⟩ := List.getElem?_eq_some_iff.1 hpos
  obtain ⟨rest, rfl⟩ := hl
  rw [BitVec.toNat_ofNat, Nat.mod_eq_of_lt (by omega), List.getElem?_append_left hc, hpos]

/-- Every table but the strong pull-up's counts its codes from its first value (30_encoding R82). -/
theorem cfgTable_eq_codesFrom0 {f : CfgField} (hf : f ≠ .spud) : cfgTable f = codesFrom0 (cfgLegal f) := by
  cases f with
  | spud => exact absurd rfl hf
  | _ => rfl

theorem getElem?_codeFor {p : CfgRecord} {f : CfgField} (hf : f ≠ .spud) (h : cfgGet p f ∈ cfgLegal f) (w : Nat)
    (hw : (cfgLegal f).length ≤ 2 ^ w) : (cfgLegal f)[(BitVec.ofNat w (codeFor p f)).toNat]? = some (cfgGet p f) :=
  getElem?_storedCode ⟨[], List.append_nil _⟩ (cfgTable_eq_codesFrom0 hf ▸ codeFor_spec h) w hw

/-- The strong pull-up's durations; FOREVER is not among them (30_encoding R82). -/
def spudDurations : List CfgValue := [.num 16400, .num 65500, .num 131000, .num 262000, .num 524000, .num 1048000]

theorem cfgTable_spud :
    cfgTable .spud = codesFrom0 spudDurations ++ [(.token .forever, Config.spuForeverCode.toNat)] := rfl

/-- A strong pull-up value is FOREVER, with its own code, or a duration, with its position. -/
theorem codeFor_spud {p : CfgRecord} (h : p.spud ∈ cfgLegal .spud) :
    (p.spud, codeFor p .spud) ∈ codesFrom0 spudDurations ∨
      p.spud = .token .forever ∧ codeFor p .spud = Config.spuForeverCode.toNat := by
  have hmem : (p.spud, codeFor p .spud) ∈ cfgTable .spud := codeFor_spec (f := .spud) h
  rw [cfgTable_spud] at hmem
  simpa using hmem

theorem forever_not_mem_codesFrom0 (c : Nat) : (CfgValue.token .forever, c) ∉ codesFrom0 spudDurations := fun h =>
  absurd (List.mem_of_getElem? (getElem?_of_mem_codesFrom0 h)) (by decide)

theorem sessionOf_spud_forever {p : CfgRecord} (h : p.spud ∈ cfgLegal .spud) (hv : p.spud = .token .forever) :
    (sessionOf p).spud = Config.spuForeverCode := by
  rcases codeFor_spud h with hmem | ⟨-, hcode⟩
  · rw [hv] at hmem
    exact absurd hmem (forever_not_mem_codesFrom0 _)
  · show BitVec.ofNat 3 (codeFor p .spud) = _
    rw [hcode, BitVec.ofNat_toNat, BitVec.setWidth_eq]

theorem sessionOf_spud_duration {p : CfgRecord} (h : p.spud ∈ cfgLegal .spud) (hv : p.spud ≠ .token .forever) :
    (cfgLegal .spud)[(sessionOf p).spud.toNat]? = some p.spud := by
  rcases codeFor_spud h with hmem | ⟨hv', -⟩
  · exact getElem?_storedCode ⟨[.token .forever], rfl⟩ hmem 3 (by decide)
  · exact absurd hv' hv

/-- Settles O36: a record without an illegal field stores its codes, and each register is wide enough for its table. -/
theorem configureStoresTheCodes : Obligations.ConfigureStoresTheCodes := by
  refine ⟨fun s => ?first, ⟨rfl, rfl, rfl⟩, fun s p h => ?legal⟩
  case first => exact exec_configure_legal (p := firstValues) rfl s
  case legal =>
    exact ⟨sessionOf p, exec_configure_legal (firstIllegal_eq_none h) s, getElem?_codeFor (by decide) (h .speed) 2 (by decide),
      getElem?_codeFor (by decide) (h .slew) 3 (by decide), getElem?_codeFor (by decide) (h .pdur) 3 (by decide),
      sessionOf_spud_forever (h .spud), sessionOf_spud_duration (h .spud), getElem?_codeFor (by decide) (h .w1lt) 3 (by decide),
      getElem?_codeFor (by decide) (h .w0rt) 3 (by decide), getElem?_codeFor (by decide) (h .load) 3 (by decide),
      getElem?_codeFor (by decide) (h .baud) 3 (by decide), rfl⟩

/-- Settles O37: the field that a split of the check order singles out is the first one that is not legal. -/
theorem configureReportsTheFirstIllegalField : Obligations.ConfigureReportsTheFirstIllegalField :=
  fun s _ _ _ _ hsplit hbefore hf => exec_configure_illegal (firstIllegal_eq_some hsplit hbefore hf) s

/-! ### Before CONFIGURE (43_frame_mode R199) -/

/-- An instruction of the transport whose operands lie in their domains is refused for the missing session alone. -/
theorem exec_of_not_configured {i : Instr} (hi : usesNoTransport i = false) (hw : i.wellFormed = true) {s : State}
    (hv : s.cfgValid = false) : exec i s = .refused .unconfigured := by
  cases i with
  | markData | markCommand | searchRom | cfgRead _ | cfgWriteSlew _ | cfgWritePdur _ | cfgWriteW1lt _ | cfgWriteW0rt _
  | cfgWriteLoad _ | resetResponse _ | bitWriteEcho _ | xact _ _ _ | txrx _ _ | resetBus | enumerate =>
    exact configured_neg hv _
  | searchEcho y => exact (exec_searchEcho y s).trans (configured_neg hv _)
  | detect => exact (exec_detect s).trans (configured_neg hv _)
  | owReset _ | srchAccOn _ | srchAccOff _ | bitWrite _ | cfgWriteSpud _ | cfgWriteBaud _ | search _ _ =>
    exact (if_pos (of_decide_eq_true hw)).trans (configured_neg hv _)
  | _ => cases hi

/-- Settles O38: every instruction named uses the transport. -/
theorem unconfiguredIsRefused : Obligations.UnconfiguredIsRefused := by
  intro s hv i hw hi
  refine exec_of_not_configured ?_ hw hv
  rcases hi with hi | ⟨m, tx, n, rfl⟩ | ⟨tx, n, rfl⟩ | ⟨t, last, rfl⟩ | ⟨sp, hi⟩ | ⟨c, hi⟩ | ⟨y, hi⟩
  · simp only [List.mem_cons, List.not_mem_nil, or_false] at hi
    rcases hi with rfl | rfl | rfl | rfl | rfl | rfl <;> rfl
  · rfl
  · rfl
  · rfl
  · rcases hi with rfl | rfl | rfl | rfl <;> rfl
  · rcases hi with rfl | rfl | rfl | rfl | rfl | rfl | rfl | rfl <;> rfl
  · rcases hi with rfl | rfl | rfl <;> rfl

end Sys2Proof.Proofs
end

section
/-! PROOFS. How a transaction that is not answered ends (43_frame_mode R192, R193, 60_exceptions R265 to R267, R272): a failed
flush or write raises with no recovery, a failed read after one; and so in every operation that makes the transaction. -/

namespace Sys2Proof.Proofs
open Sys2Proof Sys2Proof.Machine

/-! ### XACT, answered -/

theorem exec_xact (m : Mode) (tx : List Byte) (n : Nat) (s : State) :
    exec (.xact m tx n) s = configured (transactBytes m tx n) s := rfl

/-- TXRX is XACT in DATA mode (43_frame_mode R219). -/
theorem exec_txrx (tx : List Byte) (n : Nat) (s : State) : exec (.txrx tx n) s = exec (.xact .data tx n) s := rfl

/-- Settles O39: the transaction completes, and its answer is as long as was asked. -/
theorem xactCompletes : Obligations.XactCompletes := by
  intro s m tx rx n hc hs hr
  obtain ⟨t, ht, hresponse, hrest⟩ := transactBytes_completes hc hs hr
  refine ⟨t, ht, fun hm => ?_, hresponse, length_of_answered hr, hrest⟩
  rw [exec_txrx, ← hm, exec_xact, ht]

/-! ### Pieces that do not go on -/

/-- The piece does not go on: it ends in an error or stuck. -/
def EndsHere {α : Type} : Ran α → Prop
  | .ok _ _ => False
  | .err _ _ => True
  | .hung _ => True

/-- What would come after a piece that does not go on does not matter. -/
theorem EndsHere.bind_eq {α β : Type} {r : Ran α} (h : EndsHere r) (k k' : α → State → Ran β) : r.bind k = r.bind k' := by
  cases r with
  | ok a t => exact h.elim
  | err e t => rfl
  | hung t => rfl

theorem EndsHere.bind {α β : Type} {r : Ran α} (h : EndsHere r) (k : α → State → Ran β) : EndsHere (r.bind k) := by
  cases r with
  | ok a t => exact h.elim
  | err e t => trivial
  | hung t => trivial

theorem resyncRaise_endsHere {α : Type} (e : Err) (s : State) : EndsHere (resyncRaise e s : Ran α) := by
  unfold resyncRaise
  cases detectBody s <;> trivial

/-- SEARCH's result, from its body (43_frame_mode R216). -/
def searchResult (t : Word) (last : Nat) (s : State) : Ran Result :=
  (searchBody t last s).bind fun r u => .ok (.decoded r.1 r.2) u

theorem exec_search (t : Word) {last : Nat} (h : last ≤ 64) (s : State) :
    exec (.search t last) s = configured (searchResult t last) s := if_pos h

/-- A reset that does not go on ends its SEARCH as it ends itself. -/
theorem searchResult_of_reset_endsHere {s : State} (h : EndsHere (resetBody s)) (t : Word) (last : Nat) :
    searchResult t last s = resetBody s := by
  rw [searchResult, searchBody]
  cases hr : resetBody s with
  | ok a u => rw [hr] at h; exact h.elim
  | err e u => rfl
  | hung u => rfl

theorem configured_congr {r r' : State → Ran Result} {s : State} (h : r s = r' s) : configured r s = configured r' s := by
  rw [configured, configured, h]

/-- When the reset's transaction does not go on, RESET_BUS is the XACT of its command byte, and SEARCH is that RESET_BUS. -/
theorem exec_reset_of_endsHere {s : State} (h : EndsHere (transact .command [owResetByte s.cfg.speed] 1 s)) :
    exec .resetBus s = exec (.xact .command [0xC1#8 ||| (s.cfg.speed.setWidth 8 <<< 2)] 1) s ∧
      ∀ t last, last ≤ 64 → exec (.search t last) s = exec .resetBus s := by
  refine ⟨configured_congr (h.bind_eq _ _), fun t last hlast => ?_⟩
  rw [exec_search t hlast]
  exact configured_congr (searchResult_of_reset_endsHere (h.bind _) t last)

theorem transactBytes_err {m : Mode} {tx : List Byte} {n : Nat} {s t : State} {e : Err} (h : transact m tx n s = .err e t) :
    transactBytes m tx n s = .err e t := by
  rw [transactBytes, h, Ran.bind_err]

/-! ### A failed flush or write -/

/-- `t` comes from `s` with the history `h` and MODE at `m`; LIVE_BAUD and every other register are as in `s`. -/
structure LeftWith (s : State) (m : Mode) (h : List Event) (t : State) : Prop where
  mode : t.mode = m
  live : t.liveBaud = s.liveBaud
  hist : t.history = h
  keep : KeepsRegisters s t

/-- A transaction's failed flush (43_frame_mode R192, R193). -/
theorem transact_flushFails {s : State} (h : s.flushDraw 0 = false) (m : Mode) (tx : List Byte) (n : Nat) :
    ∃ t, transact m tx n s = .err (.transport .flush) t ∧ LeftWith s m (s.history ++ [.flush false]) t :=
  ⟨_, transact_flush_err h, rfl, rfl, rfl, by simp [KeepsRegisters]⟩

/-- A transaction's failed write (43_frame_mode R192, R193). -/
theorem transact_writeFails {s : State} {m : Mode} {tx : List Byte} {r : WriteResult} (hf : s.flushDraw 0 = true)
    (hw : writeOutcome (frameFor m tx s).length (s.writeDraw 0) = r) (hr : r ≠ .ok) (n : Nat) :
    ∃ t, transact m tx n s = .err (.transport r.phase) t ∧
      LeftWith s m (s.history ++ [.flush true, .write (frameFor m tx s) r]) t := by
  subst hw
  exact ⟨_, transact_write_err hf hr, rfl, rfl, by simp, by simp [KeepsRegisters]⟩

/-- A transaction whose frame is not sent does not go on to its read. -/
theorem transact_endsHere_of_not_sends {s : State} {m : Mode} {tx : List Byte} (h : ¬Sends s 0 (frameFor m tx s).length)
    (n : Nat) : EndsHere (transact m tx n s) := by
  cases hf : s.flushDraw 0 with
  | false => rw [transact_flush_err hf]; trivial
  | true => rw [transact_write_err hf fun hw => h ⟨hf, hw⟩]; trivial

/-- An operation whose body raises `e` without a recovery. -/
theorem configured_raised {r : State → Ran Result} {s t : State} {e : Err} {m : Mode} {h : List Event}
    (hc : s.cfgValid = true) (hr : r s = .err e t) (hl : LeftWith s m h t) :
    ∃ u, configured r s = .next u ∧ u.response = some (.error e) ∧ u.mode = m ∧ u.liveBaud = s.liveBaud ∧ u.history = h ∧
      KeepsRegisters s u :=
  ⟨t.respond (.error e), configured_err hc hr, rfl, hl.mode, hl.live, hl.hist, hl.keep⟩

/-- An operation whose body raises the error of a failed write. -/
theorem configured_writeFails {r : State → Ran Result} {s t : State} {w : WriteResult} {m : Mode} {h : List Event}
    (hc : s.cfgValid = true) (hw : w ≠ .ok) (hr : r s = .err (.transport w.phase) t) (hl : LeftWith s m h t) :
    ∃ u p, configured r s = .next u ∧ u.response = some (.error (.transport p)) ∧ (w = .error → p = .write) ∧
      (w ≠ .error → p = .shortWrite) ∧ u.mode = m ∧ u.liveBaud = s.liveBaud ∧ u.history = h ∧ KeepsRegisters s u := by
  obtain ⟨u, hu, hresponse, hrest⟩ := configured_raised hc hr hl
  obtain ⟨herror, hshort⟩ := WriteResult.phase_eq hw
  exact ⟨u, w.phase, hu, hresponse, herror, hshort, hrest⟩

/-- What a later transaction leaves, seen from before an answered one. -/
theorem leftWith_of_exchanged {s t : State} {m m' : Mode} {tx : List Byte} {n : Nat} {h : List Event}
    (hl : LeftWith (s.exchanged m tx n) m' h t) : LeftWith s m' h t where
  mode := hl.mode
  live := hl.live.trans (exchanged_keeps s m tx n).2.2
  hist := hl.hist
  keep := keepsRegisters_trans (exchanged_keeps s m tx n).1 hl.keep

/-! ### SEARCH's own transaction -/

/-- After a good reset, SEARCH ends with the error of its own transaction (43_frame_mode R216). -/
theorem searchResult_of_payload_err {s u : State} {t : Word} {last : Nat} {y : Byte} {v : ChipVersion} {e : Err}
    (s0 : Sends s 0 (if s.mode = .command then 1 else 2)) (d0 : Delivers s 0 1 [y]) (h1 : y &&& 0xC0#8 = 0xC0#8)
    (h2 : (y.extractLsb' 2 3).toNat = v.code)
    (h : transact .data (s.payload t last) 17 (s.exchanged .command [owResetByte s.cfg.speed] 1) = .err e u) :
    searchResult t last s = .err e u := by
  rw [searchResult, searchBody_ok_reset s0 d0 h1 h2, h, Ran.bind_err, Ran.bind_err]

/-- The history behind an answered reset. -/
theorem reset_history {s : State} {y : Byte} (d0 : Delivers s 0 1 [y]) :
    (s.exchanged .command [owResetByte s.cfg.speed] 1).history =
      s.history ++ exchangeEvents (frameFor .command [owResetByte s.cfg.speed] s) 1 [y] :=
  exchanged_history (answered_reset d0)

/-- Settles O40: the failed transaction is XACT's own, RESET_BUS's, or SEARCH's second one, and none of them runs Resync. -/
theorem xactSendFailureRaises : Obligations.XactSendFailureRaises := by
  refine ⟨fun s tx n => exec_txrx tx n s, fun s hc => ⟨fun m tx n => ⟨fun hf => ?xactFlush, fun r hf hw hr => ?xactWrite⟩,
    fun hsend => ?reset, fun y v t last s0 d0 h1 h2 hlast => ?search⟩⟩
  case xactFlush =>
    obtain ⟨u, hu, hl⟩ := transact_flushFails hf m tx n
    exact configured_raised hc (transactBytes_err hu) hl
  case xactWrite =>
    obtain ⟨u, hu, hl⟩ := transact_writeFails hf hw hr n
    exact configured_writeFails hc hr (transactBytes_err hu) hl
  case reset => exact exec_reset_of_endsHere (transact_endsHere_of_not_sends (length_resetFrame s ▸ hsend) 1)
  case search =>
    obtain ⟨hflush, hwrite, -⟩ := exchanged_draws s .command [owResetByte s.cfg.speed] 1 (by decide) 0
    obtain ⟨hframe, hlength⟩ := frameFor_payload s t last
    rw [exec_search t hlast, ← reset_history d0]
    refine ⟨fun hf => ?flush, fun r hf hw hr => ?write⟩
    case flush =>
      obtain ⟨u, hu, hl⟩ := transact_flushFails (hflush.trans hf) .data (s.payload t last) 17
      exact configured_raised hc (searchResult_of_payload_err s0 d0 h1 h2 hu) (leftWith_of_exchanged hl)
    case write =>
      obtain ⟨u, hu, hl⟩ := transact_writeFails (hflush.trans hf) (by rw [hframe, hlength, hwrite]; exact hw) hr 17
      rw [hframe] at hl
      exact configured_writeFails hc hr (searchResult_of_payload_err s0 d0 h1 h2 hu) (leftWith_of_exchanged hl)

/-! ### A failed read -/

/-- The error of a read that fails (60_exceptions R262). -/
theorem rxRead_fails {s : State} {n : Nat} {r : ReadResult} (hn : n ≠ 0) (hr : readOutcome n s.pending (s.readDraw 0) = r)
    (hbad : r = .short ∨ r = .error) :
    rxRead n s = .err (.transport (if r = .short then .shortRead else .read)) (s.afterRead n) := by
  rcases hbad with rfl | rfl
  · exact rxRead_short hn hr
  · exact rxRead_error hn hr

/-- A transaction's failed read runs the recovery in the state the transaction has reached (43_frame_mode R192). -/
theorem transact_readFails {s : State} {m : Mode} {tx : List Byte} {n : Nat} {r : ReadResult}
    (hs : Sends s 0 (frameFor m tx s).length) (hn : n ≠ 0) (hr : readOutcome n [] (s.readDraw 0) = r)
    (hbad : r = .short ∨ r = .error) :
    transact m tx n s =
      resyncRaise (.transport (if r = .short then .shortRead else .read)) (s.exchanged m tx n) := by
  rw [State.exchanged, if_neg hn]
  exact transact_read_err hs (rxRead_fails hn (by simpa [State.sent] using hr) hbad)

/-- The events of a transaction up to its read, whatever the read gives. -/
theorem exchanged_history_read (s : State) (m : Mode) (tx : List Byte) {n : Nat} (hn : n ≠ 0) :
    (s.exchanged m tx n).history =
      s.history ++ [.flush true, .write (frameFor m tx s) .ok, .read n (readOutcome n [] (s.readDraw 0))] := by
  simp [State.exchanged, hn, State.afterRead, State.sent]

/-- `t` comes from `s` by one recovery after the history `h` (60_exceptions R266). -/
structure RecoveredFrom (s : State) (h : List Event) (t : State) : Prop where
  mode : t.mode = .command
  live : t.liveBaud = liveAfterDetect s
  hist : ∃ es, t.history = h ++ es ∧ detectRuns es = 1
  keep : KeepsRegisters s t

/-- A recovery that starts in `u`, seen from an earlier state `s`. -/
theorem recoveredFrom_of_detectOut {s u t : State} (hk : KeepsRegisters s u) (hl : liveAfterDetect u = liveAfterDetect s)
    (h : DetectOut u t) : RecoveredFrom s u.history t where
  mode := h.mode
  live := h.live.trans hl
  hist := h.hist
  keep := keepsRegisters_trans hk h.keep

/-- A transaction's failed read, when the recovery does not hang, raises the read's own error after it. -/
theorem transact_readRecovers {s : State} {m : Mode} {tx : List Byte} {n : Nat} {r : ReadResult}
    (hs : Sends s 0 (frameFor m tx s).length) (hn : n ≠ 0) (hr : readOutcome n [] (s.readDraw 0) = r)
    (hbad : r = .short ∨ r = .error) (hhang : NoHang s 1) :
    ∃ t, transact m tx n s = .err (.transport (if r = .short then .shortRead else .read)) t ∧
      RecoveredFrom s (s.history ++ [.flush true, .write (frameFor m tx s) .ok, .read n r]) t := by
  have hdraw := (exchanged_draws s m tx n hn 0).2.2
  rw [transact_readFails hs hn hr hbad, ← hr, ← exchanged_history_read s m tx hn]
  obtain ⟨t, ht, hout⟩ := resyncRaise_out (α := List Byte) (.transport (if r = .short then .shortRead else .read))
    (s.exchanged m tx n) (by rw [NoHang, hdraw]; exact hhang)
  subst hr
  exact ⟨t, ht, recoveredFrom_of_detectOut (exchanged_keeps s m tx n).1 (liveAfterDetect_exchanged s m tx n) hout⟩

/-- A recovery after a later transaction, seen from before an answered one. -/
theorem recoveredFrom_of_exchanged {s t : State} {m : Mode} {tx : List Byte} {n : Nat} {h : List Event}
    (hr : RecoveredFrom (s.exchanged m tx n) h t) : RecoveredFrom s h t where
  mode := hr.mode
  live := hr.live.trans (liveAfterDetect_exchanged s m tx n)
  hist := hr.hist
  keep := keepsRegisters_trans (exchanged_keeps s m tx n).1 hr.keep

/-- An operation whose body raises `e` after one recovery, with the history before the recovery named. -/
theorem configured_recoveredFrom {r : State → Ran Result} {s t : State} {e : Err} {h : List Event} (hc : s.cfgValid = true)
    (hr : r s = .err e t) (d : RecoveredFrom s h t) :
    ∃ u es, configured r s = .next u ∧ u.response = some (.error e) ∧ u.mode = .command ∧
      u.liveBaud = liveAfterDetect s ∧ u.history = h ++ es ∧ detectRuns es = 1 ∧ KeepsRegisters s u := by
  obtain ⟨es, hes, hruns⟩ := d.hist
  exact ⟨t.respond (.error e), es, configured_err hc hr, rfl, d.mode, d.live, hes, hruns, d.keep⟩

/-- Settles O41: the failed read is XACT's own, RESET_BUS's, or SEARCH's second one, and the recovery's read is the next. -/
theorem xactReadFailureResyncs : Obligations.XactReadFailureResyncs := by
  refine ⟨fun s tx n => exec_txrx tx n s, fun s hc => ⟨fun m tx n r hs hn hr hbad hhang => ?xact,
    fun s0 => ⟨fun r hr hbad => ?reset, fun y v t last r d0 h1 h2 s1 hlast hr hbad hhang => ?search⟩⟩⟩
  case xact =>
    obtain ⟨u, hu, hrec⟩ := transact_readRecovers hs hn hr hbad hhang
    exact configured_recoveredFrom hc (transactBytes_err hu) hrec
  case reset =>
    refine exec_reset_of_endsHere ?_
    rw [transact_readFails (length_resetFrame s ▸ s0) (by decide) hr hbad]
    exact resyncRaise_endsHere _ _
  case search =>
    have hdraw (k : Nat) := (exchanged_draws s .command [owResetByte s.cfg.speed] 1 (by decide) k).2.2
    obtain ⟨u, hu, hrec⟩ := transact_readRecovers (sends_payload t last s1) (n := 17) (by decide) (by rw [hdraw]; exact hr) hbad
      (by rw [NoHang, hdraw]; exact hhang)
    rw [exec_search t hlast, ← reset_history d0]
    rw [(frameFor_payload s t last).1] at hrec
    exact configured_recoveredFrom hc (searchResult_of_payload_err s0 d0 h1 h2 hu) (recoveredFrom_of_exchanged hrec)

/-! ### A bad echo byte -/

/-- Settles O48: both transactions of SEARCH are answered, the echo check runs the recovery, and its read is the third one. -/
theorem searchRejectsABadEcho : Obligations.SearchRejectsABadEcho := by
  intro s t last y e v rs hc hlast s0 s1 d0 d1 h1 h2 he hhang
  have hdraw := (exchanged_draws s .command [owResetByte s.cfg.speed] 1 (by decide) 0).2.2
  obtain ⟨u, hu, hout⟩ := resyncRaise_out (α := Unit) (.invalidResponse .search e) (s.searched t last)
    (by rw [NoHang, (s.searched_draws t last 0).2.2]; exact hhang)
  have hbody : searchResult t last s = .err (.invalidResponse .search e) u := by
    rw [searchResult, searchBody_answered s0 s1 d0 d1 h1 h2, checkEcho_bad he, hu, Ran.bind_err, Ran.bind_err]
  have hanswered : Answered (s.exchanged .command [owResetByte s.cfg.speed] 1) 17 (e :: rs) :=
    .inr ⟨by decide, by rw [Delivers, hdraw]; exact d1⟩
  rw [exec_search t hlast]
  exact configured_recovered hc hbody (detectOut_of_exchanged (detectOut_of_exchanged hout hanswered) (answered_reset d0))

/-! ### DETECT -/

/-- DETECT, by its answer: what its body leaves, then the answer, or stuck there when it has none (43_frame_mode R210). -/
theorem exec_detect_answers {s : State} (hc : s.cfgValid = true) :
    ∃ t, DetectOut s t ∧ (∀ r, detectAnswer s = some r → exec .detect s = .next (t.respond r)) ∧
      (detectAnswer s = none → exec .detect s = .fault (.hung t)) := by
  have hanswer := detectBody_answer s
  rw [exec_detect, configured_pos hc]
  cases hb : detectBody s <;> rw [hb] at hanswer
  all_goals
    obtain ⟨ha, hout⟩ := hanswer
    exact ⟨_, hout, by simp [ha], by simp [ha]⟩

/-- Settles O44: what DETECT's body leaves does not depend on how it ends. -/
theorem detectNeverRecovers : Obligations.DetectNeverRecovers := by
  intro s hc
  obtain ⟨t, hout, hanswers, hhangs⟩ := exec_detect_answers hc
  obtain ⟨es, hes, hruns⟩ := hout.hist
  exact ⟨t, es, hout.mode, hout.live, hes, hruns, hout.keep, hanswers, hhangs⟩

end Sys2Proof.Proofs
end

section
/-! PROOFS. The sequencer around SEARCH (44_enumerate R240 to R244): no transport operation sees the cursor, so an error of
RESET_BUS ends ENUMERATE as it ends the reset (R242), and one turn of the loop at any cursor. -/

namespace Sys2Proof.Proofs
open Sys2Proof Sys2Proof.Machine

/-! ### Pieces of an operation that do not see the cursor -/

/-- The same end of a piece, with another cursor. -/
def withCursor {α : Type} (c : Cursor) : Ran α → Ran α
  | .ok a t => .ok a (t.setEnum c)
  | .err e t => .err e (t.setEnum c)
  | .hung t => .hung (t.setEnum c)

/-- The piece ends the same whatever the cursor, and leaves the cursor alone. -/
def CursorBlind {α : Type} (r : State → Ran α) : Prop := ∀ s c, r (s.setEnum c) = withCursor c (r s)

theorem CursorBlind.bind {α β : Type} {r : State → Ran α} {k : α → State → Ran β} (h : CursorBlind r)
    (hk : ∀ a, CursorBlind (k a)) : CursorBlind fun s => (r s).bind k := by
  intro s c
  simp only [h s c]
  cases r s with
  | ok a t => exact hk a t c
  | err e t => rfl
  | hung t => rfl

theorem txFlush_cursorBlind : CursorBlind txFlush := by
  intro s c
  cases h : s.flushDraw 0 with
  | false => rw [txFlush_err h, txFlush_err (s := s.setEnum c) h]; rfl
  | true => rw [txFlush_ok h, txFlush_ok (s := s.setEnum c) h]; rfl

theorem txWrite_cursorBlind (xs : List Byte) : CursorBlind (txWrite xs) := by
  intro s c
  by_cases h : writeOutcome xs.length (s.writeDraw 0) = .ok
  · rw [txWrite_ok h, txWrite_ok (s := s.setEnum c) h]; rfl
  · rw [txWrite_err h, txWrite_err (s := s.setEnum c) h]; rfl

theorem lineControl_cursorBlind (event : Bool → Event) : CursorBlind (lineControl event) := by
  intro s c
  cases h : s.lineDraw 0 with
  | false => rw [lineControl_err event h, lineControl_err (s := s.setEnum c) event h]; rfl
  | true => rw [lineControl_ok event h, lineControl_ok (s := s.setEnum c) event h]; rfl

theorem rxRead_cursorBlind (n : Nat) : CursorBlind (rxRead n) := by
  intro s c
  by_cases hn : n = 0
  · subst hn; rfl
  · cases h : readOutcome n s.pending (s.readDraw 0) with
    | bytes xs => rw [rxRead_bytes hn h, rxRead_bytes (s := s.setEnum c) hn h]; rfl
    | short => rw [rxRead_short hn h, rxRead_short (s := s.setEnum c) hn h]; rfl
    | error => rw [rxRead_error hn h, rxRead_error (s := s.setEnum c) hn h]; rfl
    | hang => rw [rxRead_hang hn h, rxRead_hang (s := s.setEnum c) hn h]; rfl

theorem detectBody_cursorBlind : CursorBlind detectBody := by
  intro s c
  refine ((lineControl_cursorBlind _).bind fun _ => ?_) (s.setMode .command) c
  refine (lineControl_cursorBlind _).bind fun _ s c => ?_
  refine ((lineControl_cursorBlind _).bind fun _ s c => ?_) (s.setLiveBaud (.code 0#2)) c
  refine (txFlush_cursorBlind.bind fun _ s c => ?_) (delay Config.tBreakSettle s) c
  refine ((txWrite_cursorBlind [owResetByte s.cfg.speed]).bind fun _ s c => ?_) s c
  refine ((txWrite_cursorBlind (probeFrame s.cfg)).bind fun _ => ?_) (delay Config.tResetSettle s) c
  exact (rxRead_cursorBlind 5).bind fun y s c => rfl

theorem resyncRaise_cursorBlind {α : Type} (e : Err) : CursorBlind (resyncRaise e : State → Ran α) := by
  intro s c
  unfold resyncRaise
  rw [detectBody_cursorBlind s c]
  cases detectBody s <;> rfl

theorem recovered_withCursor (c : Cursor) (r : Ran (List Byte)) : recovered (withCursor c r) = withCursor c (recovered r) := by
  cases r with
  | ok rx t => rfl
  | err e t => exact resyncRaise_cursorBlind e t c
  | hung t => rfl

theorem transact_cursorBlind (m : Mode) (tx : List Byte) (n : Nat) : CursorBlind (transact m tx n) := by
  intro s c
  refine (txFlush_cursorBlind.bind fun _ => ?_) (s.setMode m) c
  refine (txWrite_cursorBlind (frameFor m tx s)).bind fun _ t c => ?_
  rw [rxRead_cursorBlind n t c, recovered_withCursor]

theorem checkReset_cursorBlind (y : Byte) : CursorBlind (checkReset y) := by
  intro s c
  by_cases h : y &&& 0xC0#8 = 0xC0#8 ∧ ((y.extractLsb' 2 3).toNat = 2 ∨ (y.extractLsb' 2 3).toNat = 3)
  · obtain ⟨hmask, hversion⟩ := h
    have hcode : ∃ v : ChipVersion, (y.extractLsb' 2 3).toNat = v.code :=
      hversion.elim (fun h => ⟨.ds2480, h⟩) fun h => ⟨.ds2480b, h⟩
    obtain ⟨v, hv⟩ := hcode
    rw [checkReset_good hmask hv, checkReset_good hmask hv]
    rfl
  · rw [checkReset_bad h, checkReset_bad h]
    exact resyncRaise_cursorBlind _ s c

theorem resetBody_cursorBlind : CursorBlind resetBody := fun s c =>
  ((transact_cursorBlind .command [owResetByte s.cfg.speed] 1).bind fun _ => checkReset_cursorBlind _) s c

/-! ### An error of RESET_BUS -/

/-- An operation that ends in an error is configured, and its body raised that error. -/
theorem configured_next_error {r : State → Ran Result} {s u : State} {e : Err} (h : configured r s = .next u)
    (he : u.response = some (.error e)) : s.cfgValid = true ∧ ∃ t, r s = .err e t ∧ u = t.respond (.error e) := by
  obtain ⟨hc, ⟨a, t, -, rfl⟩ | ⟨e', t, hr, rfl⟩⟩ := configured_next h
  · cases he
  · cases he
    exact ⟨hc, t, hr, rfl⟩

theorem searchBody_of_reset_err {s u : State} {e : Err} (h : resetBody s = .err e u) (t : Word) (last : Nat) :
    searchBody t last s = .err e u := by
  rw [searchBody, h, Ran.bind_err]

/-- Settles O49: SEARCH starts with the reset, and ENUMERATE with a SEARCH whose reset does not see its cursor. -/
theorem resetErrorEndsTheSearch : Obligations.ResetErrorEndsTheSearch := by
  intro s u e t last hreset he hlast
  obtain ⟨hc, v, hv, rfl⟩ := configured_next_error (r := resetBody) hreset he
  have hstart : resetBody (s.setEnum Cursor.start) = .err e (v.setEnum Cursor.start) := by
    rw [resetBody_cursorBlind, hv]
    rfl
  refine ⟨?search, ?enumerate⟩
  case search =>
    rw [exec_search t hlast]
    exact configured_err hc (by rw [searchResult, searchBody_of_reset_err hv, Ran.bind_err])
  case enumerate =>
    exact configured_err (r := enumBody) hc (enumLoop_err (searchBody_of_reset_err hstart _ _))

/-! ### One turn of the loop (44_enumerate R240, R241) -/

theorem after_list_of_valid (c : Cursor) {t : Word} (h : AddrValid t) (p : Nat) : (c.after t p).list = c.list ++ [t] := by
  simp only [Cursor.after, addrFromSearch, addrFromBytes_le8, if_pos h]

theorem after_list_of_not_valid (c : Cursor) {t : Word} (h : ¬AddrValid t) (p : Nat) : (c.after t p).list = c.list := by
  simp only [Cursor.after, addrFromSearch, addrFromBytes_le8, if_neg h]

theorem after_pos_toNat (c : Cursor) (t : Word) {p : Nat} (h : p ≤ 64) : (c.after t p).pos.toNat = p := by
  simp only [Cursor.after, BitVec.toNat_ofNat]
  omega

/-- The loop's own test, on the position and the count a turn leaves. -/
theorem enumEnds_after_iff (c : Cursor) (t : Word) {p : Nat} (h : p ≤ 64) :
    EnumEnds (c.after t p) ↔ p = 64 ∨ c.iter + 1#7 = 64#7 := by
  have hpos : (c.after t p).pos = 64#7 ↔ p = 64 := by
    rw [← BitVec.toNat_inj, after_pos_toNat c t h]
    rfl
  exact or_congr_left hpos

/-- A search that raises an error leaves the cursor it started from. -/
theorem searchBody_err_enum {w : Word} {last : Nat} {s u : State} {e : Err} (h : searchBody w last s = .err e u) :
    u.enum = s.enum := by
  have hcarries := searchBody_carries w last s
  rw [h] at hcarries
  exact hcarries.2.enum

/-- Settles O52: a search leaves the cursor to the loop, which then takes its result or its error. -/
theorem enumerateTurn : Obligations.EnumerateTurn := by
  refine ⟨fun s u t p fuel hb => ?turn, fun s u e fuel hb => ⟨enumLoop_err hb, searchBody_err_enum hb⟩, fun s hc => ?whole⟩
  case turn =>
    have hp : p ≤ 64 := searchBody_pos_le hb
    have henum : u.enum = s.enum := (searchBody_ok_carries hb).enum
    rw [← henum]
    refine ⟨u.enum.after t p, rfl, after_pos_toNat _ t hp, rfl, fun h => after_list_of_valid _ h p,
      fun h => after_list_of_not_valid _ h p, ?_⟩
    by_cases hend : EnumEnds (u.enum.after t p)
    · rw [enumLoop_last hb hend, if_pos ((enumEnds_after_iff _ t hp).1 hend), afterTurn]
    · rw [enumLoop_turn hb hend, if_neg (mt (enumEnds_after_iff _ t hp).2 hend), afterTurn]
  case whole =>
    exact ⟨configured_pos hc enumBody, fun t last hlast => (exec_search t hlast s).trans (configured_pos hc _)⟩

end Sys2Proof.Proofs
end

section
/-! PROOFS. The ends of ENUMERATE (44_enumerate R240 to R244): it raises what its searches raise, and it completes within 64
searches when all of them are answered. -/

namespace Sys2Proof.Proofs
open Sys2Proof Sys2Proof.Machine

/-! ### Errors (44_enumerate R242) -/

theorem searchBody_err_transportErr {w : Word} {last : Nat} {s u : State} {e : Err} (h : searchBody w last s = .err e u) :
    TransportErr e := by
  have hcarries := searchBody_carries w last s
  rw [h] at hcarries
  exact hcarries.1

/-- The loop raises nothing of its own: its error is that of its last search. -/
theorem enumLoop_err_transportErr {fuel : Nat} {s u : State} {e : Err} (h : enumLoop fuel s = .err e u) : TransportErr e := by
  induction fuel generalizing s with
  | zero => cases h
  | succ fuel ih =>
    cases hb : searchBody s.enum.tree s.enum.pos.toNat s with
    | ok r v =>
      by_cases hend : EnumEnds (v.enum.after r.1 r.2)
      · rw [enumLoop_last hb hend] at h
        cases h
      · rw [enumLoop_turn hb hend] at h
        exact ih h
    | err e' v =>
      rw [enumLoop_err hb] at h
      cases h
      exact searchBody_err_transportErr hb
    | hung v =>
      rw [enumLoop_hung hb] at h
      cases h

/-- Settles O53: the loop's error is a search's, and no instruction runs two recoveries. -/
theorem enumerateErrorsAreSearchErrors : Obligations.EnumerateErrorsAreSearchErrors := by
  intro s u e h he
  obtain ⟨-, t, hloop, -⟩ := configured_next_error (r := enumBody) h he
  exact ⟨enumLoop_err_transportErr hloop, atMostOneRecovery .enumerate s u (.inl h)⟩

/-! ### Searches that are all answered (44_enumerate R241) -/

/-- The environment answers the next `n` searches: each uses two flushes, two writes and two reads (43_frame_mode R216). -/
structure SearchesAnswered (n : Nat) (s : State) : Prop where
  flushes : ∀ k < 2 * n, s.flushDraw k = true
  writes : ∀ k < 2 * n, s.writeDraw k = .full
  resets : ∀ k < n, ∃ y v, Delivers s (2 * k) 1 [y] ∧ y &&& 0xC0#8 = 0xC0#8 ∧
    (y.extractLsb' 2 3).toNat = ChipVersion.code v
  echoes : ∀ k < n, ∃ e rs, Delivers s (2 * k + 1) 17 (e :: rs) ∧ e &&& 0xF0#8 = 0xF0#8

section
variable {n : Nat} {s : State}

theorem SearchesAnswered.sends (h : SearchesAnswered n s) {k : Nat} (hk : k < 2 * n) (len : Nat) : Sends s k len :=
  ⟨h.flushes k hk, by rw [h.writes k hk]; rfl⟩

/-- After the first search the others are answered: it uses its own draws, and a turn's write of the cursor uses none. -/
theorem SearchesAnswered.searched (h : SearchesAnswered (n + 1) s) (t : Word) (last : Nat) (r : Word × Nat) :
    SearchesAnswered n (afterTurn (s.searched t last) r) where
  flushes k hk := (s.searched_draws t last k).1.trans (h.flushes (k + 2) (by omega))
  writes k hk := (s.searched_draws t last k).2.1.trans (h.writes (k + 2) (by omega))
  resets k hk := by
    obtain ⟨y, v, hreset, hbyte⟩ := h.resets (k + 1) (by omega)
    exact ⟨y, v, (congrArg _ (s.searched_draws t last (2 * k)).2.2).trans hreset, hbyte⟩
  echoes k hk := by
    obtain ⟨e, rs, hanswer, hecho⟩ := h.echoes (k + 1) (by omega)
    exact ⟨e, rs, (congrArg _ (s.searched_draws t last (2 * k + 1)).2.2).trans hanswer, hecho⟩

/-- The first of the searches goes on, whatever it asks for, and the turn leaves the others answered. -/
theorem SearchesAnswered.searchBody_ok (h : SearchesAnswered (n + 1) s) (t : Word) (last : Nat) :
    ∃ r u, searchBody t last s = .ok r u ∧ SearchesAnswered n (afterTurn u r) ∧ u.mode = .data ∧
      u.liveBaud = s.liveBaud := by
  obtain ⟨y, v, hreset, hmask, hversion⟩ := h.resets 0 (by omega)
  obtain ⟨e, rs, hanswer, hecho⟩ := h.echoes 0 (by omega)
  obtain ⟨-, hmode, hlive⟩ := searched_keeps s t last
  refine ⟨decodeSearch rs, s.searched t last, ?_, h.searched t last _, hmode, hlive⟩
  rw [searchBody_answered (h.sends (by omega) _) (h.sends (by omega) _) hreset hanswer hmask hversion, checkEcho_good hecho,
    Ran.bind_ok]

end

/-- The loop, started in `s`, has stopped in `t` after at least one search. -/
structure EnumStopped (s t : State) : Prop where
  legal : t.enum.Legal
  counts : s.enum.iter.toNat < t.enum.iter.toNat
  ends : EnumEnds t.enum
  mode : t.mode = .data
  live : t.liveBaud = s.liveBaud

/-- The loop completes when the searches left up to the 64th are answered: the 64th stops it if position 64 has not. -/
theorem enumLoop_completes (fuel : Nat) {s : State} (h : SearchesAnswered fuel s) (hs : s.enum.Legal)
    (hfuel : s.enum.iter.toNat + fuel = 64) (hiter : s.enum.iter.toNat < 64) :
    ∃ t, enumLoop fuel s = .ok (.addrs t.enum.list) t ∧ EnumStopped s t := by
  induction fuel generalizing s with
  | zero => omega
  | succ fuel ih =>
    obtain ⟨r, u, hb, hrest, hmode, hlive⟩ := h.searchBody_ok s.enum.tree s.enum.pos.toNat
    have hafter : (afterTurn u r).enum = s.enum.after r.1 r.2 := by
      rw [afterTurn, State.setEnum_enum, (searchBody_ok_carries hb).enum]
    obtain ⟨hlegal, hcount⟩ := after_legal hs hiter r.1 r.2 (searchBody_pos_le hb)
    rw [← hafter] at hlegal hcount
    by_cases hend : EnumEnds (u.enum.after r.1 r.2)
    · exact ⟨afterTurn u r, enumLoop_last hb hend, hlegal, by omega, hend, hmode, hlive⟩
    · have hnot64 : (afterTurn u r).enum.iter.toNat ≠ 64 := fun h64 => hend (.inr (BitVec.eq_of_toNat_eq h64))
      obtain ⟨t, hloop, hstop⟩ := ih hrest hlegal (by omega) (by omega)
      have hcounts := hstop.counts
      exact ⟨t, (enumLoop_turn hb hend).trans hloop, hstop.legal, by omega, hstop.ends, hstop.mode, hstop.live.trans hlive⟩

/-- Settles O51: from its start cursor the loop has 64 searches to make and all of them are answered. -/
theorem enumerateCompletes : Obligations.EnumerateCompletes := by
  intro s hc hflush hwrite hreset hecho
  obtain ⟨t, hloop, hstop⟩ := enumLoop_completes 64 (s := s.setEnum Cursor.start) ⟨hflush, hwrite, hreset, hecho⟩
    cursor_start_legal rfl (by simp [Cursor.start])
  have hkeep := enumBody_keepsRegisters s
  rw [enumBody, hloop] at hkeep
  obtain ⟨-, hiter, hlength, hvalid⟩ := hstop.legal
  exact ⟨t.respond (.result (.addrs t.enum.list)), t.enum.list, configured_ok (r := enumBody) hc hloop, rfl, rfl, hvalid,
    Nat.one_le_of_lt hstop.counts, hiter, hlength, hstop.ends, hstop.mode, hstop.live, hkeep⟩

end Sys2Proof.Proofs
end

section
/-! PROOFS. The exceptions (60_exceptions R261 to R266): the numbers of the errors, and where each read of the block hangs. What
hangs inside an operation hangs the operation, in the same stuck state. -/

namespace Sys2Proof.Proofs
open Sys2Proof Sys2Proof.Machine

/-- Settles O56: each error and each phase by its own equation, whatever the error's information. -/
theorem errorNumbers : Obligations.ErrorNumbers :=
  ⟨fun _ _ _ => rfl, fun _ => rfl, fun _ _ => rfl, fun _ _ => rfl, fun _ => rfl, fun _ => rfl, rfl, rfl, rfl, rfl, rfl, rfl,
    rfl, rfl, rfl⟩

/-! ### Hung reads and how an instruction ends (60_exceptions R264) -/

theorem FrameBody.stops {r : State → Ran Result} (h : FrameBody r) (s : State) : RanStops s (r s) := by
  cases h with
  | transact m tx n => exact transactBytes_stops m tx n s
  | detect => exact (detectBody_stops s).bind fun _ t => WentOn.refl t
  | reset => exact resetBody_stops s
  | search t last => exact (searchBody_stops t last s).bind fun _ u => WentOn.refl u
  | resetCheck y => exact checkReset_stops y s
  | echoCheck y => exact (checkEcho_stops y s).bind fun _ t => WentOn.refl t
  | bitEcho y => exact WentOn.refl s

theorem enumBody_stops (s : State) : RanStops s (enumBody s) :=
  RanStops.from (t := s.setEnum Cursor.start) (WentOn.same rfl) (enumLoop_stops 64 _)

/-- An instruction that completes has made no hung read, and one that is stuck has made one, last of all. -/
theorem exec_stops (i : Instr) (s : State) :
    (∀ t, exec i s = .next t → WentOn s t) ∧ ∀ t, exec i s = .fault (.hung t) → StoppedOnHang s t := by
  cases kind_of_instr i with
  | noTransport h =>
    have heffect := exec_local h s
    refine ⟨fun t ht => ?_, fun t ht => ?_⟩ <;> rw [ht] at heffect
    · exact WentOn.same heffect.history_eq
    · exact heffect.elim
  | refuses e h =>
    rw [h]
    refine ⟨fun t ht => ?_, fun t ht => ?_⟩ <;> cases ht
  | transacts hr h => rw [h]; exact configured_stops (hr.stops s)
  | enumerates h => subst h; exact configured_stops (r := enumBody) (enumBody_stops s)

/-! ### Pieces of an operation that hang -/

/-- The piece hangs, and its stuck state comes from `s` as `StuckAt` says. -/
def RanStuckAt {α : Type} (s : State) (m : Mode) (b : LiveBaud) (es : List Event) (n : Nat) (r : Ran α) : Prop :=
  ∃ t, r = .hung t ∧ StuckAt s m b es n (.fault (.hung t))

section
variable {α β : Type} {s u : State} {m : Mode} {b : LiveBaud} {es fs : List Event} {n : Nat} {r : Ran α}

/-- What would come after the hung read never runs. -/
theorem RanStuckAt.bind (h : RanStuckAt s m b es n r) (k : α → State → Ran β) : RanStuckAt s m b es n (r.bind k) := by
  obtain ⟨t, rfl, ht⟩ := h
  exact ⟨t, rfl, ht⟩

/-- The same stuck state, seen from before what led to the piece. -/
theorem RanStuckAt.after (h : RanStuckAt u m b fs n r) (hu : u.history = s.history ++ es) (hk : KeepsRegisters s u) :
    RanStuckAt s m b (es ++ fs) n r := by
  obtain ⟨t, hr, ht⟩ := h
  exact ⟨t, hr, ht.after hu hk⟩

theorem configured_stuckAt {op : State → Ran Result} (hc : u.cfgValid = true) (h : RanStuckAt s m b es n (op u)) :
    StuckAt s m b es n (configured op u) := by
  obtain ⟨t, hr, ht⟩ := h
  rw [configured_hung hc hr]
  exact ht

/-- ENUMERATE hangs in its first SEARCH, which starts from the cursor's start (44_enumerate R240). -/
theorem enumBody_stuckAt (h : RanStuckAt s m b es n (searchBody 0#64 0 (u.setEnum Cursor.start))) :
    RanStuckAt s m b es n (enumBody u) := by
  obtain ⟨t, hr, ht⟩ := h
  exact ⟨t, enumLoop_hung hr, ht⟩

end

theorem transact_stuckAt {s : State} {m : Mode} {tx : List Byte} {n : Nat} (hs : Sends s 0 (frameFor m tx s).length)
    (hn : n ≠ 0) (hd : s.readDraw 0 = .hang) :
    RanStuckAt s m s.liveBaud [.flush true, .write (frameFor m tx s) .ok] n (transact m tx n s) :=
  ⟨_, transact_hang hs hn hd, transact_stuck hd⟩

theorem detectBody_stuckAt {s : State} (h : ReachesRead s 0 0) (hd : s.readDraw 0 = .hang) :
    RanStuckAt s .command (.code 0#2) (detectEvents s.cfg) 5 (detectBody s) :=
  ⟨_, detectBody_hang h hd, detectBody_stuck hd⟩

/-- The recovery's own read hangs as DETECT's does (60_exceptions R266). -/
theorem resyncRaise_stuckAt {α : Type} {s : State} (e : Err) (h : ReachesRead s 0 0) (hd : s.readDraw 0 = .hang) :
    RanStuckAt s .command (.code 0#2) (detectEvents s.cfg) 5 (resyncRaise e s : Ran α) :=
  ⟨_, resyncRaise_hang h hd, detectBody_stuck hd⟩

/-- A recovery that hangs, seen from before what led to it; the session it probes with is the same. -/
theorem resyncRaise_stuckAt_after {α : Type} {s u : State} {es : List Event} (e : Err) (h : ReachesRead u 0 0)
    (hd : u.readDraw 0 = .hang) (hu : u.history = s.history ++ es) (hk : KeepsRegisters s u) :
    RanStuckAt s .command (.code 0#2) (es ++ detectEvents s.cfg) 5 (resyncRaise e u : Ran α) := by
  have hstuck := (resyncRaise_stuckAt (α := α) e h hd).after hu hk
  obtain ⟨-, -, -, hcfg, -⟩ := hk
  rwa [hcfg] at hstuck

/-! ### The recovery after a transaction -/

/-- A transaction that reads uses one flush and one write of those that lead to a later recovery's read. -/
theorem reachesRead_exchanged {s : State} {f w n : Nat} (hn : n ≠ 0) (h : ReachesRead s (f + 1) (w + 1)) (m : Mode)
    (tx : List Byte) : ReachesRead (s.exchanged m tx n) f w := by
  obtain ⟨hline0, hline1, hline2, hflush, hwrite, hprobe⟩ := h
  obtain ⟨hflush', -, -⟩ := exchanged_draws s m tx n hn f
  obtain ⟨-, hwrite', -⟩ := exchanged_draws s m tx n hn w
  obtain ⟨-, hprobe', -⟩ := exchanged_draws s m tx n hn (w + 1)
  rw [ReachesRead, hflush', hwrite', hprobe']
  simp only [exchanged_lineDraw]
  exact ⟨hline0, hline1, hline2, hflush, hwrite, hprobe⟩

/-- A recovery that hangs after a transaction, whatever its read gave. -/
theorem resyncRaise_exchanged_stuckAt {α : Type} {s : State} {m : Mode} {tx : List Byte} {n : Nat} {es : List Event} (e : Err)
    (hn : n ≠ 0) (h : ReachesRead s 1 1) (hd : s.readDraw 1 = .hang) (hes : (s.exchanged m tx n).history = s.history ++ es) :
    RanStuckAt s .command (.code 0#2) (es ++ detectEvents s.cfg) 5 (resyncRaise e (s.exchanged m tx n) : Ran α) := by
  obtain ⟨hkeep, -, -⟩ := exchanged_keeps s m tx n
  obtain ⟨-, -, hdraw⟩ := exchanged_draws s m tx n hn 0
  exact resyncRaise_stuckAt_after e (reachesRead_exchanged hn h m tx) (hdraw.trans hd) hes hkeep

/-- A transaction's read fails and the recovery hangs (43_frame_mode R192, 60_exceptions R265). -/
theorem transact_recovery_stuckAt {s : State} {m : Mode} {tx : List Byte} {n : Nat} {r : ReadResult}
    (hs : Sends s 0 (frameFor m tx s).length) (hn : n ≠ 0) (hr : readOutcome n [] (s.readDraw 0) = r)
    (hbad : r = .short ∨ r = .error) (h : ReachesRead s 1 1) (hd : s.readDraw 1 = .hang) :
    RanStuckAt s .command (.code 0#2) ([.flush true, .write (frameFor m tx s) .ok, .read n r] ++ detectEvents s.cfg) 5
      (transact m tx n s) := by
  rw [transact_readFails hs hn hr hbad]
  exact resyncRaise_exchanged_stuckAt _ hn h hd (hr ▸ exchanged_history_read s m tx hn)

/-! ### RESET_BUS and SEARCH -/

section
variable {s : State} {y : Byte}

theorem resetBody_stuckAt (s0 : Sends s 0 (if s.mode = .command then 1 else 2)) (hd : s.readDraw 0 = .hang) :
    RanStuckAt s .command s.liveBaud [.flush true, .write (frameFor .command [owResetByte s.cfg.speed] s) .ok] 1
      (resetBody s) :=
  (transact_stuckAt (length_resetFrame s ▸ s0) (by decide) hd).bind _

/-- A garbled reset response, and the recovery hangs (43_frame_mode R213). -/
theorem resetBody_recovery_stuckAt (s0 : Sends s 0 (if s.mode = .command then 1 else 2)) (d0 : Delivers s 0 1 [y])
    (hbad : ¬(y &&& 0xC0#8 = 0xC0#8 ∧ ((y.extractLsb' 2 3).toNat = 2 ∨ (y.extractLsb' 2 3).toNat = 3)))
    (h : ReachesRead s 1 1) (hd : s.readDraw 1 = .hang) :
    RanStuckAt s .command (.code 0#2)
      (exchangeEvents (frameFor .command [owResetByte s.cfg.speed] s) 1 [y] ++ detectEvents s.cfg) 5 (resetBody s) := by
  rw [resetBody_answered s0 d0, checkReset_bad hbad]
  exact resyncRaise_exchanged_stuckAt _ (by decide) h hd (reset_history d0)

variable {v : ChipVersion} (s0 : Sends s 0 (if s.mode = .command then 1 else 2)) (d0 : Delivers s 0 1 [y])
  (h1 : y &&& 0xC0#8 = 0xC0#8) (h2 : (y.extractLsb' 2 3).toNat = v.code) (s1 : Sends s 1 23)
include s0 d0 h1 h2 s1

/-- The read of SEARCH's own transaction hangs (43_frame_mode R216). -/
theorem searchBody_stuckAt (hd : s.readDraw 1 = .hang) (t : Word) (last : Nat) :
    RanStuckAt s .data s.liveBaud
      (exchangeEvents (frameFor .command [owResetByte s.cfg.speed] s) 1 [y] ++
        [.flush true, .write (marker .data :: s.payload t last) .ok]) 17 (searchBody t last s) := by
  obtain ⟨hkeep, -, hlive⟩ := exchanged_keeps s .command [owResetByte s.cfg.speed] 1
  obtain ⟨-, -, hdraw⟩ := exchanged_draws s .command [owResetByte s.cfg.speed] 1 (by decide) 0
  have hstuck := transact_stuckAt (sends_payload t last s1) (n := 17) (by decide) (hdraw.trans hd)
  rw [(frameFor_payload s t last).1, hlive] at hstuck
  rw [searchBody_ok_reset s0 d0 h1 h2]
  exact (hstuck.after (reset_history d0) hkeep).bind _

/-- A bad echo byte, and the recovery hangs (43_frame_mode R216). -/
theorem searchBody_recovery_stuckAt {t : Word} {last : Nat} {e : Byte} {rs : List Byte} (d1 : Delivers s 1 17 (e :: rs))
    (he : e &&& 0xF0#8 ≠ 0xF0#8) (h : ReachesRead s 2 2) (hd : s.readDraw 2 = .hang) :
    RanStuckAt s .command (.code 0#2)
      (exchangeEvents (frameFor .command [owResetByte s.cfg.speed] s) 1 [y] ++
        exchangeEvents (marker .data :: s.payload t last) 17 (e :: rs) ++ detectEvents s.cfg) 5 (searchBody t last s) := by
  obtain ⟨hkeep, -, -⟩ := searched_keeps s t last
  obtain ⟨-, -, hdraw⟩ := s.searched_draws t last 0
  have hreaches : ReachesRead (s.searched t last) 0 0 :=
    reachesRead_exchanged (by decide) (reachesRead_exchanged (by decide) h .command _) .data _
  have hhist := (searched_history (t := t) (last := last) d0 d1).trans (List.append_assoc ..)
  rw [searchBody_answered s0 s1 d0 d1 h1 h2, checkEcho_bad he]
  exact (resyncRaise_stuckAt_after _ hreaches (hdraw.trans hd) hhist hkeep).bind _

end

/-- Settles O42: every instruction by kind, and each read of the block by the piece that makes it, whose stuck state is that of
the operations it stands in. -/
theorem hungReadIsStuck : Obligations.HungReadIsStuck := by
  refine ⟨fun i s t => ⟨(exec_stops i s).1 t, (exec_stops i s).2 t⟩, fun s hc =>
    ⟨fun m tx n hs hn => ⟨?txrx, fun hd => ?xact, fun r hr hbad h hd => ?xactRecovery⟩,
      fun h hd => ⟨?detect, fun y hbad => ?resetResponse, fun y hbad => ?searchEcho⟩,
      fun s0 => ⟨fun hd => ⟨?reset, ?resetInSearch, ?resetInEnumerate⟩, fun y d0 hbad h hd => ?resetRecovery,
        fun y v d0 h1 h2 s1 => ⟨fun hd => ⟨fun t last hlast => ?search, ?searchInEnumerate⟩,
          fun t last e rs hlast d1 he h hd => ?searchRecovery⟩⟩,
      fun fuel u hb => enumLoop_hung hb⟩⟩
  case txrx => rintro rfl; exact exec_txrx tx n s
  case xact => exact configured_stuckAt hc ((transact_stuckAt hs hn hd).bind _)
  case xactRecovery => exact configured_stuckAt hc ((transact_recovery_stuckAt hs hn hr hbad h hd).bind _)
  case detect =>
    rw [exec_detect]
    exact configured_stuckAt hc ((detectBody_stuckAt h hd).bind _)
  case resetResponse =>
    refine configured_stuckAt (op := checkReset y) hc ?_
    rw [checkReset_bad hbad]
    exact resyncRaise_stuckAt _ h hd
  case searchEcho =>
    rw [exec_searchEcho]
    refine configured_stuckAt hc (RanStuckAt.bind ?_ _)
    rw [checkEcho_bad hbad]
    exact resyncRaise_stuckAt _ h hd
  case reset => exact configured_stuckAt hc (resetBody_stuckAt s0 hd)
  case resetInSearch =>
    refine (exec_reset_of_endsHere ?_).2
    rw [transact_hang (length_resetFrame s ▸ s0) (by decide) hd]
    trivial
  case resetInEnumerate =>
    exact configured_stuckAt hc (enumBody_stuckAt ((resetBody_stuckAt (s := s.setEnum Cursor.start) s0 hd).bind _))
  case resetRecovery => exact configured_stuckAt hc (resetBody_recovery_stuckAt s0 d0 hbad h hd)
  case search =>
    rw [exec_search t hlast]
    exact configured_stuckAt hc ((searchBody_stuckAt s0 d0 h1 h2 s1 hd t last).bind _)
  case searchInEnumerate =>
    exact configured_stuckAt hc
      (enumBody_stuckAt (searchBody_stuckAt (s := s.setEnum Cursor.start) s0 d0 h1 h2 s1 hd 0#64 0))
  case searchRecovery =>
    rw [exec_search t hlast]
    exact configured_stuckAt hc ((searchBody_recovery_stuckAt s0 d0 h1 h2 s1 d1 he h hd).bind _)

end Sys2Proof.Proofs
end

section
/-! PROOFS. Reset (70_reset_and_hazards R290). -/

namespace Sys2Proof.Proofs
open Sys2Proof Sys2Proof.Machine

/-- Settles O8: each register's value in the reset state, read off its definition. -/
theorem resetLeavesTheStatedValues : Obligations.ResetLeavesTheStatedValues :=
  ⟨rfl, rfl, rfl, rfl, rfl, rfl, rfl, rfl, rfl, rfl, rfl, rfl, rfl, rfl, rfl⟩

end Sys2Proof.Proofs
end

section
/-! PROOFS. The mode hazard (70_reset_and_hazards R300, 43_frame_mode R217): a SEARCH that returns ends with its own transaction,
whose frame, sent whole, ends with a COMMAND marker, while MODE stays DATA. -/

namespace Sys2Proof.Proofs
open Sys2Proof Sys2Proof.Machine

/-! ### Pieces of an operation that went on -/

theorem not_endsHere_of_ok {α : Type} {r : Ran α} {a : α} {u : State} (h : r = .ok a u) : ¬EndsHere r := by
  rw [h]
  exact id

/-- Only a hung draw hangs a read (60_exceptions R264). -/
theorem readOutcome_eq_hang {n : Nat} {waiting : List Byte} {d : ReadDraw} (h : readOutcome n waiting d = .hang) : d = .hang := by
  cases d with
  | arrive xs =>
    simp only [readOutcome] at h
    split at h <;> cases h
  | error => cases h
  | hang => rfl

/-- A transaction that is sent but not answered ends at its read (43_frame_mode R192). -/
theorem transact_endsHere_of_not_answered {m : Mode} {tx : List Byte} {n : Nat} {s : State}
    (hs : Sends s 0 (frameFor m tx s).length) (h : ∀ rx, ¬Answered s n rx) : EndsHere (transact m tx n s) := by
  have hn : n ≠ 0 := fun hn => h [] (.inl ⟨hn, rfl⟩)
  cases hd : readOutcome n [] (s.readDraw 0) with
  | bytes rx => exact (h rx (.inr ⟨hn, hd⟩)).elim
  | short =>
    rw [transact_readFails hs hn hd (.inl rfl)]
    exact resyncRaise_endsHere _ _
  | error =>
    rw [transact_readFails hs hn hd (.inr rfl)]
    exact resyncRaise_endsHere _ _
  | hang =>
    rw [transact_hang hs hn (readOutcome_eq_hang hd)]
    trivial

/-- A transaction goes on exactly when its frame is sent and its read is answered (43_frame_mode R192). -/
theorem transact_ok_iff {m : Mode} {tx rx : List Byte} {n : Nat} {s u : State} :
    transact m tx n s = .ok rx u ↔ Sends s 0 (frameFor m tx s).length ∧ Answered s n rx ∧ u = s.exchanged m tx n := by
  refine ⟨fun h => ?_, fun ⟨hs, hr, hu⟩ => hu ▸ transact_ok hs hr⟩
  have hs : Sends s 0 (frameFor m tx s).length :=
    by_contra fun hno => not_endsHere_of_ok h (transact_endsHere_of_not_sends hno n)
  obtain ⟨ys, hr⟩ : ∃ ys, Answered s n ys :=
    by_contra fun hno => not_endsHere_of_ok h (transact_endsHere_of_not_answered hs (not_exists.1 hno))
  rw [transact_ok hs hr] at h
  cases h
  exact ⟨hs, hr, rfl⟩

/-- The echo check goes on without touching the state (43_frame_mode R216). -/
theorem checkEcho_ok_state {y : Byte} {s u : State} {x : Unit} (h : checkEcho y s = .ok x u) : u = s := by
  by_cases he : y &&& 0xF0#8 = 0xF0#8
  · rw [checkEcho_good he] at h
    cases h
    rfl
  · rw [checkEcho_bad he] at h
    exact (not_endsHere_of_ok h (resyncRaise_endsHere _ _)).elim

/-- A search that goes on ends in the state its own transaction leaves (43_frame_mode R216). -/
theorem searchBody_ok_exchanged {t : Word} {last : Nat} {s u : State} {r : Word × Nat} (h : searchBody t last s = .ok r u) :
    ∃ v rx, Answered v 17 rx ∧ u = v.exchanged .data (v.payload t last) 17 := by
  unfold searchBody at h
  obtain ⟨_, v, -, h⟩ := bind_eq_ok h
  obtain ⟨rx, w, hx, h⟩ := bind_eq_ok h
  obtain ⟨_, w', he, h⟩ := bind_eq_ok h
  cases h
  obtain ⟨-, hr, rfl⟩ := transact_ok_iff.1 hx
  exact ⟨v, rx, hr, checkEcho_ok_state he⟩

/-- An operation that ends in a result has a body that went on to it. -/
theorem configured_next_result {r : State → Ran Result} {s u : State} {a : Result} (h : configured r s = .next u)
    (ha : u.response = some (.result a)) : ∃ t, r s = .ok a t ∧ u = t.respond (.result a) := by
  obtain ⟨-, ⟨a', t, hr, rfl⟩ | ⟨e, t, -, rfl⟩⟩ := configured_next h
  · cases ha
    exact ⟨t, hr, rfl⟩
  · cases ha

/-! ### What the chip may have received (20_memory R53, R55) -/

/-- The outgoing stream is one of the streams the chip may have received: the one where failed writes deliver nothing. -/
theorem mayHaveReceived_outStream (h : List Event) : MayHaveReceived h (outStream h) := by
  induction h with
  | nil => rfl
  | cons e h ih =>
    refine ⟨e.sent, outStream h, rfl, ?_, ih⟩
    cases e with
    | write xs r =>
      cases r with
      | ok => rfl
      | short k => exact ⟨xs, rfl⟩
      | error => exact ⟨xs, rfl⟩
    | _ => rfl

/-- What is received over two histories in a row is received over one and then over the other. -/
theorem mayHaveReceived_append {h k : List Event} {bs : List Byte} (hb : MayHaveReceived (h ++ k) bs) :
    ∃ xs ys, bs = xs ++ ys ∧ MayHaveReceived h xs ∧ MayHaveReceived k ys := by
  induction h generalizing bs with
  | nil => exact ⟨[], bs, rfl, rfl, hb⟩
  | cons e h ih =>
    obtain ⟨a, b, rfl, ha, hb⟩ := hb
    obtain ⟨xs, ys, rfl, hx, hy⟩ := ih hb
    exact ⟨a ++ xs, ys, (List.append_assoc ..).symm, ⟨a, xs, rfl, ha, hx⟩, hy⟩

/-- An answered transaction brings its frame to the chip and nothing else. -/
theorem mayHaveReceived_exchangeEvents {frame rx bs : List Byte} {n : Nat}
    (h : MayHaveReceived (exchangeEvents frame n rx) bs) : bs = frame := by
  unfold exchangeEvents at h
  split at h <;> simpa [MayHaveReceived, Event.MayDeliver] using h

/-! ### The last marker (10_state R46) -/

theorem lastMarker_append_of_some {ys : List Byte} {m : Mode} (h : lastMarker ys = some m) (xs : List Byte) :
    lastMarker (xs ++ ys) = some m := by
  unfold lastMarker at h ⊢
  rw [List.filterMap_append, List.getLast?_append, h]
  rfl

/-- The accelerator-off byte that ends the payload is no marker, so the COMMAND marker before it is the last. -/
theorem lastMarker_searchPayload (speed : BitVec 2) (q : List Byte) : lastMarker (searchPayload speed q) = some .command :=
  have hend : ∀ speed : BitVec 2, lastMarker [marker .command, srchAccOffByte speed] = some .command := by decide
  lastMarker_append_of_some (hend speed) _

/-- A frame ends with its payload, marker before it or not (43_frame_mode R192). -/
theorem lastMarker_frameFor {tx : List Byte} {k : Mode} (h : lastMarker tx = some k) (m : Mode) (s : State) :
    lastMarker (frameFor m tx s) = some k := by
  unfold frameFor
  split
  · exact h
  · exact lastMarker_append_of_some h [marker m]

/-- After an answered transaction the last marker of its payload is the chip's last, whatever the chip received before. -/
theorem lastMarker_of_exchanged {s : State} {m k : Mode} {tx rx bs : List Byte} {n : Nat} (hr : Answered s n rx)
    (h : lastMarker tx = some k) (hb : MayHaveReceived (s.exchanged m tx n).history bs) : lastMarker bs = some k := by
  rw [exchanged_history hr] at hb
  obtain ⟨xs, ys, rfl, -, hy⟩ := mayHaveReceived_append hb
  rw [mayHaveReceived_exchangeEvents hy]
  exact lastMarker_append_of_some (lastMarker_frameFor h m s) xs

/-- Settles O50: the search that returned ended with an answered transaction in DATA mode, and its payload's last marker is
COMMAND; the outgoing stream is one of the streams the chip may have received. -/
theorem searchLeavesTheModeHazard : Obligations.SearchLeavesTheModeHazard := by
  intro s u t last r h hr
  have hlast : last ≤ 64 := by
    by_contra hgt
    rw [(exec_position_outside t s (not_le.1 hgt)).2] at h
    cases h
  rw [exec_search t hlast] at h
  obtain ⟨v, hresult, rfl⟩ := configured_next_result h hr
  obtain ⟨a, w, hbody, hw⟩ := bind_eq_ok hresult
  cases hw
  obtain ⟨x, rx, hanswered, rfl⟩ := searchBody_ok_exchanged hbody
  obtain ⟨-, hmode, -⟩ := exchanged_keeps x .data (x.payload t last) 17
  have hmarker (bs : List Byte) (hb : MayHaveReceived (x.exchanged .data (x.payload t last) 17).history bs) :
      lastMarker bs = some .command := lastMarker_of_exchanged hanswered (lastMarker_searchPayload _ _) hb
  exact ⟨hmode, hmarker _ (mayHaveReceived_outStream _), hmarker⟩

end Sys2Proof.Proofs
end
